-- ==== Sys2Proof/Word.lean ====
section
/-! DEFINITION. The word types of the block (spec/00_scope.md R6, R7, R8): every value is an unsigned bit vector. -/

namespace Sys2Proof

/-- A data byte (R6). -/
abbrev Byte := BitVec 8

/-- A command word (R63), a CRC register value or a sequence number (R6). -/
abbrev Half := BitVec 16

/-- A response word, a length, a counter or a PBUF index (R6, R46). -/
abbrev Word := BitVec 32

end Sys2Proof
end

