-- ==== Sys2Proof/Config.lean ====
section
/-! DEFINITION. The implementation parameters of spec/00_scope.md R5: "A model of the block takes these parameters as
arguments". They are plain data, carried by State in one constant field (log 1), so every statement about every state
holds for every choice of them. -/

namespace Sys2Proof

/-- The parameters of R5, each at its legal range. -/
structure Params where
  /-- `MAX_LEN`: the length ceiling and the PBUF size in bytes. -/
  maxLen : Word
  /-- `RESYNC_WINDOW`: garbage bytes before ERR_SYNC; 0 disables the check. -/
  resyncWindow : Word
  /-- `EVENT_SEQ_C`: the reserved event sequence value of variant C, or NONE. -/
  eventSeqC : Option Byte
  /-- `CRC_POLY_R`: the polynomial in reflected form. -/
  crcPolyR : Half
  /-- `CRC_SEED`: the initial CRC register value. -/
  crcSeed : Half
  deriving DecidableEq, Repr

/-- The "reference" column of R5, the values the test vectors of spec/95_test_vectors.md assume.
PRESUMED by the spec itself for the two CRC values (R91; log 2). -/
def Params.reference : Params where
  maxLen := 256#32
  resyncWindow := 0#32
  eventSeqC := none
  crcPolyR := 0x8408#16
  crcSeed := 0xFFFF#16

end Sys2Proof
end

