-- ==== Sys2Proof/Machine/State.lean ====
section
/-! DEFINITION. The state of the block (spec/10_state.md R18: "The block's complete state is the list below"), the two
sides of its command port, the reasons a step can stop, and the state after reset (R42). -/

namespace Sys2Proof.Machine

/-- PBUF (R39, R46) as (index, byte) pairs with strictly rising indices; an index not listed holds the byte
`Memory.unlisted` (log 7). -/
abbrev Memory := List Host.Cell

/-- The synchronizer state ST (R28), a 3-bit register with one name for each value. -/
inductive St where
  /-- 0: scanning for the START byte. -/
  | waitStart
  /-- 1: taking the sequence-number bytes. -/
  | seq
  /-- 2: taking the length bytes. -/
  | size
  /-- 3: expecting the TOKEN byte. -/
  | token
  /-- 4: taking payload bytes into PBUF. -/
  | data
  /-- 5: taking the checksum bytes. -/
  | csum
  /-- 6: a complete frame is held for the host. -/
  | done
  /-- 7: "unused", "no rule enters it" (log 9). -/
  | unused
  deriving DecidableEq, Repr

/-- The sticky error flags (R25, spec/60_exceptions.md R167). -/
inductive ErrFlag where
  | cksum
  | len
  | token
  | sync
  | overrun
  | range
  | illegal
  deriving DecidableEq, Repr

/-- What the host does at the block's port: it issues a command word (R63) or pulses the reset input (R190). -/
inductive HostInput where
  /-- One 16-bit command word. -/
  | command (w : Half)
  /-- `rst` asserted and released: one whole pulse (log 6). -/
  | reset
  deriving DecidableEq, Repr

/-- Why a step stops with a fault. The block itself never does (R166): each of these stands where no rule gives an
effect, in a state no run from reset reaches (log 8, log 9), and stopping there is safe. -/
inductive Fault where
  /-- SYNC_PUSH with ST = 7: "no rule handles it" (R125, U2 "stuck"). Raised by `execSyncPush`. Safe. -/
  | stUnused
  /-- A PBUF access at an index outside 0 .. MAX_LEN-1, which does not exist (R46). Raised by `memRead` and `memWrite`. Safe. -/
  | pbufOutOfRange
  deriving DecidableEq, Repr

/-- Why a step is refused. -/
inductive Refusal where
  /-- The instruction has no meaning in this model. Raised only by an arm of `exec`; no arm raises it now. Safe. -/
  | notModelled (mnemonic : String)
  deriving DecidableEq, Repr

/-- The state: the parameters (R5), the items of R18, and the two sides of the command port. -/
structure State where
  /-- The parameters of R5; no command changes them (log 1). -/
  params : Params
  /-- CTRL (R20). -/
  ctrl : BitVec 8
  /-- ERR (R25). -/
  err : BitVec 7
  /-- CRC, the standalone CRC-16 accumulator (R26). -/
  crc : Half
  /-- XOR, the standalone XOR accumulator (R27). -/
  xor : Byte
  /-- ST (R28). -/
  st : St
  /-- SEQR (R29). -/
  seqr : Half
  /-- LENR (R30). -/
  lenr : Word
  /-- FCNT (R31). -/
  fcnt : BitVec 2
  /-- DCNT (R32). -/
  dcnt : Word
  /-- RCRC (R33). -/
  rcrc : Half
  /-- RXOR (R34). -/
  rxor : Byte
  /-- CKS_OK (R35). -/
  cksOk : Bool
  /-- IS_EVT (R36). -/
  isEvt : Bool
  /-- RPTR (R37). -/
  rptr : Word
  /-- GCNT (R38). -/
  gcnt : Word
  /-- PBUF (R39). -/
  pbuf : Memory
  /-- What the host has still to do at the port, oldest first: the model's own field (log 3). -/
  inputs : List HostInput
  /-- The responses returned so far, oldest first (R64, R201): the model's own field (log 5). -/
  resps : List Word
  deriving DecidableEq, Repr

/-- The state after power-on reset (R42) of a block with parameters `p`; nothing waits at the port, no response has been
returned, and every byte of PBUF, whose content the spec leaves unspecified, is `Memory.unlisted` (log 7). -/
def State.powerOn (p : Params) : State where
  params := p
  ctrl := 0x00#8
  err := 0#7
  crc := p.crcSeed
  xor := 0x00#8
  st := .waitStart
  seqr := 0x0000#16
  lenr := 0#32
  fcnt := 0#2
  dcnt := 0#32
  rcrc := p.crcSeed
  rxor := 0x00#8
  cksOk := false
  isEvt := false
  rptr := 0#32
  gcnt := 0#32
  pbuf := []
  inputs := []
  resps := []

/-- The machine right after reset, with the reference parameters of R5 (log 1). -/
def State.reset : State := State.powerOn Params.reference

end Sys2Proof.Machine
end

