-- ==== Sys2Proof/Machine/Flags.lean ====
section
/-! DEFINITION. The fields of CTRL (spec/10_state.md R20 to R23), the error codes (spec/60_exceptions.md R167), and the
values computed from state: FRAME_READY, CRC_ZERO, XOR_ZERO (R41), irq (R40) and the STATUS word (R24). -/

namespace Sys2Proof.Machine

/-- CTRL.VARIANT = 1: the synchronizer parses variant C (R21). -/
def variantC (s : State) : Bool := s.ctrl.getLsbD 0

/-- CTRL.FRIE, the frame-ready interrupt enable (R20). -/
def frie (s : State) : Bool := s.ctrl.getLsbD 1

/-- CTRL.ERRIE, the error interrupt enable (R20). -/
def errie (s : State) : Bool := s.ctrl.getLsbD 2

/-- CTRL as it reads: the reserved bits 7:3 "always read 0" (R23; log 12). -/
def ctrlRead (s : State) : BitVec 8 := s.ctrl &&& 0x07#8

/-- The 3-bit value of ST (R28). -/
def stCode : St → BitVec 3
  | .waitStart => 0#3
  | .seq => 1#3
  | .size => 2#3
  | .token => 3#3
  | .data => 4#3
  | .csum => 5#3
  | .done => 6#3
  | .unused => 7#3

/-- An error's code, "the bit index in ERR" (R167). -/
def errCode : ErrFlag → Nat
  | .cksum => 0
  | .len => 1
  | .token => 2
  | .sync => 3
  | .overrun => 4
  | .range => 5
  | .illegal => 6

/-- The ERR word with only this flag set. -/
def errBit (e : ErrFlag) : BitVec 7 := 1#7 <<< errCode e

/-- STATUS.FRAME_READY (R24). -/
def frameReady (s : State) : Bool := s.st == .done

/-- STATUS.CRC_ZERO (R24). -/
def crcZero (s : State) : Bool := s.crc == 0x0000#16

/-- STATUS.XOR_ZERO (R24). -/
def xorZero (s : State) : Bool := s.xor == 0x00#8

/-- The interrupt output, a level computed from state (R40, R174). -/
def irq (s : State) : Bool := (frie s && s.st == .done) || (errie s && s.err != 0#7)

/-- The STATUS word (R24), from bit 31 down to bit 0. -/
def statusWord (s : State) : Word :=
  0#13 ++ BitVec.ofBool (irq s) ++ BitVec.ofBool (xorZero s) ++ BitVec.ofBool (crcZero s) ++ 0#1 ++ s.err ++ 0#1 ++
    BitVec.ofBool s.isEvt ++ BitVec.ofBool s.cksOk ++ BitVec.ofBool (frameReady s) ++ BitVec.ofBool (variantC s) ++
    stCode s.st

end Sys2Proof.Machine
end

