-- ==== Sys2Proof/Machine/Frame.lean ====
section
/-! DEFINITION. The wire frame formats of variants A and C (spec/30_encoding.md R72 to R78) and the record a delivered
frame stands for (spec/42_sync.md R143). -/

namespace Sys2Proof.Machine

/-- START (R72). -/
def startByte : Byte := 0x1B#8

/-- TOKEN (R72). -/
def tokenByte : Byte := 0x0E#8

/-- `START_DET(b)` (R72). -/
def startDet (b : Byte) : Bool := b == startByte

/-- `TOKEN_DET(b)` (R72). -/
def tokenDet (b : Byte) : Bool := b == tokenByte

/-- The reserved event sequence value of variant A (R73). -/
def eventSeqA : Half := 0xFFFF#16

/-- `is_event(V, s)` (spec/42_sync.md R133); `variantC` is V = 1. -/
def isEvent (p : Params) (variantC : Bool) (s : Half) : Bool :=
  if variantC then
    match p.eventSeqC with
    | none => false
    | some e => s == e.setWidth 16
  else s == eventSeqA

/-- Byte `k` of a value, bits 8k+7 : 8k. -/
def byteOf {n : Nat} (k : Nat) (v : BitVec n) : Byte := v.extractLsb' (8 * k) 8

/-- The bytes of a variant A frame before the payload (R74), for a payload of `n` bytes. -/
def headerA (seq : Half) (n : Word) : List Byte :=
  [startByte, byteOf 0 seq, byteOf 1 seq, byteOf 0 n, byteOf 1 n, byteOf 2 n, byteOf 3 n, tokenByte]

/-- The bytes of a variant C frame before the payload (R75), for a payload of `n` bytes. -/
def headerC (seq : Byte) (n : Half) : List Byte :=
  [startByte, seq, byteOf 1 n, byteOf 0 n, tokenByte]

/-- The bytes of a variant A frame that its CRC covers (R76, R77). -/
def coveredA (seq : Half) (payload : List Byte) : List Byte :=
  headerA seq (BitVec.ofNat 32 payload.length) ++ payload

/-- The bytes of a variant C frame that its XOR covers (R76, R78). -/
def coveredC (seq : Byte) (payload : List Byte) : List Byte :=
  headerC seq (BitVec.ofNat 16 payload.length) ++ payload

/-- A CRC as it goes on the wire, low byte first (R51, R74). -/
def crcBytes (c : Half) : List Byte := [byteOf 0 c, byteOf 1 c]

/-- `frameA(seq, payload)` (R77), meant for a payload of fewer than 2^32 bytes. -/
def frameA (p : Params) (seq : Half) (payload : List Byte) : List Byte :=
  coveredA seq payload ++ crcBytes (crc16 p (coveredA seq payload))

/-- `frameC(seq, payload)` (R78), meant for a payload of fewer than 2^16 bytes. -/
def frameC (seq : Byte) (payload : List Byte) : List Byte :=
  coveredC seq payload ++ [xor8 (coveredC seq payload)]

/-- The sizes of the sequence, length and checksum fields in bytes (spec/42_sync.md R116). -/
def seqBytes (variantC : Bool) : Nat := if variantC then 1 else 2

/-- See `seqBytes`. -/
def sizeBytes (variantC : Bool) : Nat := if variantC then 2 else 4

/-- See `seqBytes`. -/
def csumBytes (variantC : Bool) : Nat := if variantC then 1 else 2

/-- The source's `Frame` record, which a held frame stands for (spec/42_sync.md R143). -/
structure Frame where
  sequence : Option Half
  payload : List Byte
  checksumValid : Bool
  isEvent : Bool
  deriving DecidableEq, Repr

end Sys2Proof.Machine
end

