-- ==== Sys2Proof/Syntax.lean ====
section
/-! DEFINITION. The instructions: one constructor for each of the 20 rows of spec/opcode_table.json
(spec/30_encoding.md R67). A command of kind (d) of R65 ignores D, so its constructor has no operand (R66; log 14). -/

namespace Sys2Proof

/-- A host command of the opcode map R67. -/
inductive Instr where
  /-- NOP, R151. -/
  | nop
  /-- SOFT_RESET, R152. -/
  | softReset
  /-- WR_CTRL, R153; `d` is the whole data byte, a field image of CTRL. -/
  | wrCtrl (d : Byte)
  /-- RD_CTRL, R154. -/
  | rdCtrl
  /-- RD_STATUS, R155. -/
  | rdStatus
  /-- CLR_ERR, R156; `d` is the whole data byte, a mask. -/
  | clrErr (d : Byte)
  /-- CRC_INIT, R97. -/
  | crcInit
  /-- CRC_BYTE, R98. -/
  | crcByte (b : Byte)
  /-- CRC_RD, R99. -/
  | crcRd
  /-- XOR_INIT, R108. -/
  | xorInit
  /-- XOR_BYTE, R109. -/
  | xorByte (b : Byte)
  /-- XOR_RD, R110. -/
  | xorRd
  /-- SYNC_RESET, R136. -/
  | syncReset
  /-- SYNC_PUSH, R125. -/
  | syncPush (b : Byte)
  /-- SYNC_RELEASE, R137. -/
  | syncRelease
  /-- RD_SEQ, R138. -/
  | rdSeq
  /-- RD_LEN, R140. -/
  | rdLen
  /-- RD_PAYLOAD, R139. -/
  | rdPayload
  /-- RPTR_CLR, R141. -/
  | rptrClr
  /-- RD_GCNT, R142. -/
  | rdGcnt
  deriving DecidableEq, Repr

end Sys2Proof
end

