-- ==== Sys2Proof/WellFormed.lean ====
section
/-! DEFINITION. Which instructions are written as an assembler writes them (spec/30_encoding.md R66): the ignored bits of
an operand "should be zero". The block does not check them, so the decoder accepts and the machine runs the others as
well (log 14). Every other operand value is legal. -/

namespace Sys2Proof

/-- The should-be-zero bits are zero: D[7:3] of WR_CTRL and D[7] of CLR_ERR (R66). -/
def Instr.wellFormed : Instr → Bool
  | .wrCtrl d => d.extractLsb' 3 5 == 0#5
  | .clrErr d => d.extractLsb' 7 1 == 0#1
  | .nop | .softReset | .rdCtrl | .rdStatus => true
  | .crcInit | .crcByte _ | .crcRd => true
  | .xorInit | .xorByte _ | .xorRd => true
  | .syncReset | .syncPush _ | .syncRelease | .rdSeq | .rdLen | .rdPayload | .rptrClr | .rdGcnt => true

end Sys2Proof
end

