-- ==== Sys2Proof/Decode.lean ====
section
/-! DEFINITION. Decoding and encoding of the 16-bit command word (spec/30_encoding.md R63 to R69). Decoding is total: an
opcode outside R67 is illegal (R68) and decodes to none; the step then takes the illegal-command rule R157. -/

namespace Sys2Proof

/-- `OPC = cmd[15:8]` (R63). -/
def opcField (w : Half) : Byte := w.extractLsb' 8 8

/-- `D = cmd[7:0]` (R63). -/
def dField (w : Half) : Byte := w.extractLsb' 0 8

/-- The command of opcode `opc` with data byte `d`, by the opcode map R67; none for an illegal opcode (R68). -/
def decodeFields (opc d : Byte) : Option Instr :=
  match opc.toNat with
  | 0x00 => some .nop
  | 0x01 => some .softReset
  | 0x02 => some (.wrCtrl d)
  | 0x03 => some .rdCtrl
  | 0x04 => some .rdStatus
  | 0x05 => some (.clrErr d)
  | 0x10 => some .crcInit
  | 0x11 => some (.crcByte d)
  | 0x12 => some .crcRd
  | 0x20 => some .xorInit
  | 0x21 => some (.xorByte d)
  | 0x22 => some .xorRd
  | 0x30 => some .syncReset
  | 0x31 => some (.syncPush d)
  | 0x32 => some .syncRelease
  | 0x33 => some .rdSeq
  | 0x34 => some .rdLen
  | 0x35 => some .rdPayload
  | 0x36 => some .rptrClr
  | 0x37 => some .rdGcnt
  | _ => none

/-- "A decoder reads OPC = cmd[15:8] and looks it up in this table" (R67). -/
def decode (w : Half) : Option Instr := decodeFields (opcField w) (dField w)

/-- The opcode of a command (R67). -/
def Instr.opcode : Instr → Byte
  | .nop => 0x00#8
  | .softReset => 0x01#8
  | .wrCtrl _ => 0x02#8
  | .rdCtrl => 0x03#8
  | .rdStatus => 0x04#8
  | .clrErr _ => 0x05#8
  | .crcInit => 0x10#8
  | .crcByte _ => 0x11#8
  | .crcRd => 0x12#8
  | .xorInit => 0x20#8
  | .xorByte _ => 0x21#8
  | .xorRd => 0x22#8
  | .syncReset => 0x30#8
  | .syncPush _ => 0x31#8
  | .syncRelease => 0x32#8
  | .rdSeq => 0x33#8
  | .rdLen => 0x34#8
  | .rdPayload => 0x35#8
  | .rptrClr => 0x36#8
  | .rdGcnt => 0x37#8

/-- Whether the command uses D: kinds (a), (b) and (c) of R65. -/
def Instr.takesD : Instr → Bool
  | .wrCtrl _ | .clrErr _ | .crcByte _ | .xorByte _ | .syncPush _ => true
  | .nop | .softReset | .rdCtrl | .rdStatus | .crcInit | .crcRd | .xorInit | .xorRd => false
  | .syncReset | .syncRelease | .rdSeq | .rdLen | .rdPayload | .rptrClr | .rdGcnt => false

/-- The D field an assembler writes: the operand, "with D = 0x00 when the command takes no D" (R70). -/
def Instr.operand : Instr → Byte
  | .wrCtrl d => d
  | .clrErr d => d
  | .crcByte b => b
  | .xorByte b => b
  | .syncPush b => b
  | .nop | .softReset | .rdCtrl | .rdStatus | .crcInit | .crcRd | .xorInit | .xorRd => 0x00#8
  | .syncReset | .syncRelease | .rdSeq | .rdLen | .rdPayload | .rptrClr | .rdGcnt => 0x00#8

/-- The word `{OPC, D}` (R63, R70). -/
def encode (i : Instr) : Half := i.opcode ++ i.operand

/-- The command word with bits `w`, bit 0 the least significant; a command is one 16-bit word and has no other length
(R63, R69), so bits above `nbits` are 0 and bits above 15 do not exist (log 16). -/
def tableWord (nbits w : Nat) : Half := BitVec.ofNat 16 (w % 2 ^ nbits)

/-- What the decoder reads from a row's word, numbered as spec/opcode_table.json numbers it. -/
def decodeTableWord (nbits w : Nat) : Option Instr := decode (tableWord nbits w)

end Sys2Proof
end

