-- ==== Sys2Proof/Machine/Operands.lean ====
section
/-! DEFINITION. The four uses of the D field (spec/30_encoding.md R65). No immediate is sign-extended, scaled or shifted. -/

namespace Sys2Proof.Machine

/-- (a) D as a data byte, "used unchanged": CRC_BYTE, XOR_BYTE, SYNC_PUSH. -/
def dataByte (d : Byte) : Byte := d

/-- (b) D as a field image, `zext_8(D[2:0])`: WR_CTRL. D[7:3] are ignored. -/
def ctrlImage (d : Byte) : BitVec 8 := (d.extractLsb' 0 3).setWidth 8

/-- (c) D as a bit mask, `D[6:0]`: CLR_ERR. D[7] is ignored. -/
def errMask (d : Byte) : BitVec 7 := d.extractLsb' 0 7

end Sys2Proof.Machine
end

