-- ==== Sys2Proof/Machine/Ops.lean ====
section
/-! DEFINITION. The shared operations: PBUF (spec/20_memory.md R46 to R50), the response (spec/30_encoding.md R64), raising
an error (spec/60_exceptions.md R166, the block's only kind of exception: it sets a sticky flag and control moves nowhere,
R176), clearing errors (its return, R177), the synchronizer's steps (spec/42_sync.md R117, R127, R133, R136) and reset. -/

namespace Sys2Proof.Machine

/-! ### PBUF -/

/-- What an index that is not listed holds. DESIGN CHOICE: R42 leaves PBUF's content after reset unspecified and U1 allows any
value (log 7). -/
def Memory.unlisted : Byte := 0x00#8

/-- The byte at index `a`: "Each index names one byte" (R46). -/
def Memory.read : Memory → Nat → Byte
  | [], _ => Memory.unlisted
  | (k, v) :: m, a => if k = a then v else Memory.read m a

/-- The list with the entry `(a, v)` at its place. -/
def Memory.insert : Memory → Nat → Byte → Memory
  | [], a, v => [(a, v)]
  | (k, u) :: m, a, v =>
    if a < k then (a, v) :: (k, u) :: m
    else if a = k then (a, v) :: m
    else (k, u) :: Memory.insert m a v

/-- PBUF with byte `v` at index `a`; a byte that an unlisted index holds as well is not listed. -/
def Memory.write (m : Memory) (a : Nat) (v : Byte) : Memory :=
  if v = Memory.unlisted then m.filter (fun c => c.1 ≠ a) else m.insert a v

/-- The canonical form: indices strictly rising, and no entry equal to what an unlisted index holds. -/
abbrev Memory.wf (m : Memory) : Prop := m.Pairwise (fun x y => x.1 < y.1) ∧ ∀ c ∈ m, c.2 ≠ Memory.unlisted

/-- Every listed index exists in a PBUF of `n` bytes (R46). -/
abbrev Memory.within (m : Memory) (n : Nat) : Prop := ∀ c ∈ m, c.1 < n

/-- The `n` bytes from index `a` up. -/
def Memory.readBytes (m : Memory) (a n : Nat) : List Byte := (List.range n).map fun i => m.read (a + i)

/-- `MemRead(i, 1)` (R9, R48). -/
def memRead (i : Word) (s : State) : Except Fault Byte :=
  if i < s.params.maxLen then .ok (s.pbuf.read i.toNat) else .error .pbufOutOfRange

/-- `MemWrite(i, 1, v)` (R9, R47). -/
def memWrite (i : Word) (v : Byte) (s : State) : Except Fault State :=
  if i < s.params.maxLen then .ok { s with pbuf := s.pbuf.write i.toNat v }
  else .error .pbufOutOfRange

/-! ### The command port -/

/-- The command answers `v` (R64): every command answers exactly one response word. -/
def respond (v : Word) (s : State) : State := { s with resps := s.resps ++ [v] }

/-- The host's next input and the state with it taken; none while the host does nothing (log 3, log 4). -/
def takeInput (s : State) : Option (HostInput × State) :=
  match s.inputs with
  | [] => none
  | x :: rest => some (x, { s with inputs := rest })

/-! ### Errors -/

/-- `raise E(info)` (R166): the flag becomes 1 "and nothing else". -/
def raise (e : ErrFlag) (s : State) : State := { s with err := s.err ||| errBit e }

/-- Clearing the flags of a mask (spec/43_control.md R156), the host's acknowledgement of an error (R177). -/
def clearErrors (mask : BitVec 7) (s : State) : State := { s with err := s.err &&& ~~~mask }

/-- An illegal command (spec/43_control.md R157): ERR_ILLEGAL, response 0, nothing else. -/
def illegalCommand (s : State) : State := respond 0#32 (raise .illegal s)

/-! ### The synchronizer -/

/-- `sat32(c + 1)` (spec/00_scope.md R8). -/
def sat32Inc (c : Word) : Word := if c = 0xFFFFFFFF#32 then c else c + 1#32

/-- A value with byte `k` (bits 8k+7 : 8k) replaced by `b`, the other bits left alone (R9, `REG[hi:lo] <- v`). -/
def setByte {n : Nat} (k : Nat) (b : Byte) (v : BitVec n) : BitVec n :=
  (v &&& ~~~((0xFF#8).setWidth n <<< (8 * k))) ||| (b.setWidth n <<< (8 * k))

/-- `acc(b)` (R117): both accumulators take the byte, in both variants. -/
def acc (b : Byte) (s : State) : State :=
  { s with rcrc := crc16Step s.params.crcPolyR s.rcrc b, rxor := s.rxor ^^^ b }

/-- `start_frame(b)` (R127). RPTR and PBUF are not changed. -/
def startFrame (b : Byte) (s : State) : State :=
  { s with
    seqr := 0x0000#16, lenr := 0#32, fcnt := 0#2, dcnt := 0#32, cksOk := false, isEvt := false, gcnt := 0#32
    rcrc := crc16Step s.params.crcPolyR s.params.crcSeed b
    rxor := 0x00#8 ^^^ b
    st := .seq }

/-- `enter_done()` (R133). -/
def enterDone (s : State) : State :=
  { s with isEvt := isEvent s.params (variantC s) s.seqr, rptr := 0#32, st := .done }

/-- Abandoning any frame: the assignments shared by SYNC_RESET (R136) and a change of VARIANT (spec/43_control.md R153).
ERR, CTRL, CRC, XOR and PBUF are not changed. -/
def syncClear (s : State) : State :=
  { s with
    st := .waitStart, seqr := 0x0000#16, lenr := 0#32, fcnt := 0#2, dcnt := 0#32
    rcrc := s.params.crcSeed, rxor := 0x00#8
    cksOk := false, isEvt := false, rptr := 0#32, gcnt := 0#32 }

/-- The frame the host sees while ST = DONE (R143); none in every other state. -/
def heldFrame (s : State) : Option Frame :=
  if s.st = .done then
    some { sequence := some s.seqr, payload := s.pbuf.readBytes 0 s.lenr.toNat, checksumValid := s.cksOk, isEvent := s.isEvt }
  else none

/-! ### Reset -/

/-- Every register of R18 at its reset value (spec/10_state.md R42). "Neither has any effect on PBUF's content"
(spec/70_reset_and_hazards.md R191); the port's two lists are the host's side and stay. -/
def resetRegisters (s : State) : State :=
  { s with
    ctrl := 0x00#8, err := 0#7, crc := s.params.crcSeed, xor := 0x00#8
    st := .waitStart, seqr := 0x0000#16, lenr := 0#32, fcnt := 0#2, dcnt := 0#32
    rcrc := s.params.crcSeed, rxor := 0x00#8
    cksOk := false, isEvt := false, rptr := 0#32, gcnt := 0#32 }

/-- A pulse of the reset input (R190). No command is executed, so no response is returned. -/
def hardReset (s : State) : State := resetRegisters s

end Sys2Proof.Machine
end

