-- ==== Sys2Proof/Machine/Control.lean ====
section
/-! DEFINITION. The control and status commands (spec/43_control.md R150 to R156). -/

namespace Sys2Proof.Machine

/-- NOP (R151). -/
def execNop (s : State) : Host.Outcome State Fault Refusal := .next (respond 0#32 s)

/-- SOFT_RESET (R152). PBUF is not changed. -/
def execSoftReset (s : State) : Host.Outcome State Fault Refusal := .next (respond 0#32 (resetRegisters s))

/-- WR_CTRL (R153): a change of VARIANT abandons any frame, as SYNC_RESET does; ERR is not changed. -/
def execWrCtrl (d : Byte) (s : State) : Host.Outcome State Fault Refusal :=
  .next (respond 0#32
    (if d.getLsbD 0 = variantC s then { s with ctrl := ctrlImage d } else { syncClear s with ctrl := ctrlImage d }))

/-- RD_CTRL (R154). -/
def execRdCtrl (s : State) : Host.Outcome State Fault Refusal := .next (respond ((ctrlRead s).setWidth 32) s)

/-- RD_STATUS (R155): the word "composed from the state as it stands before this command". -/
def execRdStatus (s : State) : Host.Outcome State Fault Refusal := .next (respond (statusWord s) s)

/-- CLR_ERR (R156). -/
def execClrErr (d : Byte) (s : State) : Host.Outcome State Fault Refusal :=
  .next (respond 0#32 (clearErrors (errMask d) s))

end Sys2Proof.Machine
end

