-- ==== Sys2Proof/Machine/Crc.lean ====
section
/-! DEFINITION. The commands of the standalone CRC-16 unit (spec/40_crc16.md R97 to R99). -/

namespace Sys2Proof.Machine

/-- CRC_INIT (R97). -/
def execCrcInit (s : State) : Host.Outcome State Fault Refusal := .next (respond 0#32 { s with crc := s.params.crcSeed })

/-- CRC_BYTE (R98). -/
def execCrcByte (d : Byte) (s : State) : Host.Outcome State Fault Refusal :=
  .next (respond 0#32 { s with crc := crc16Step s.params.crcPolyR s.crc (dataByte d) })

/-- CRC_RD (R99). -/
def execCrcRd (s : State) : Host.Outcome State Fault Refusal := .next (respond (s.crc.setWidth 32) s)

end Sys2Proof.Machine
end

