-- ==== Sys2Proof/Machine/Sync.lean ====
section
/-! DEFINITION. The frame synchronizer's commands (spec/42_sync.md R125 to R142). -/

namespace Sys2Proof.Machine

/-- SYNC_PUSH in WAIT_START (R126). -/
def pushWaitStart (b : Byte) (s : State) : State :=
  if startDet b then startFrame b s
  else
    let s₁ := { s with gcnt := sat32Inc s.gcnt }
    if s₁.params.resyncWindow ≠ 0#32 ∧ s₁.gcnt ≥ s₁.params.resyncWindow then raise .sync s₁ else s₁

/-- SYNC_PUSH in SEQ (R128). -/
def pushSeq (b : Byte) (s : State) : State :=
  let s₁ := acc b s
  if variantC s₁ then { s₁ with seqr := b.setWidth 16, fcnt := 0#2, st := .size }
  else if s₁.fcnt = 0#2 then { s₁ with seqr := setByte 0 b s₁.seqr, fcnt := 1#2 }
  else { s₁ with seqr := setByte 1 b s₁.seqr, fcnt := 0#2, st := .size }

/-- LENR with the length byte of index FCNT taken (R129): little-endian in variant A, big-endian in variant C. -/
def takeLenByte (b : Byte) (s : State) : Word :=
  if variantC s then setByte (if s.fcnt = 0#2 then 1 else 0) b s.lenr else setByte s.fcnt.toNat b s.lenr

/-- Whether the byte of index FCNT is the last length byte (R129). -/
def lastLenByte (s : State) : Bool := if variantC s then s.fcnt == 1#2 else s.fcnt == 3#2

/-- SYNC_PUSH in SIZE (R129). -/
def pushSize (b : Byte) (s : State) : State :=
  let s₁ := acc b s
  let s₂ := { s₁ with lenr := takeLenByte b s₁ }
  if lastLenByte s₁ then
    let s₃ := { s₂ with fcnt := 0#2 }
    if s₃.lenr > s₃.params.maxLen then { raise .len s₃ with st := .waitStart } else { s₃ with st := .token }
  else { s₂ with fcnt := s₂.fcnt + 1#2 }

/-- SYNC_PUSH in TOKEN (R130); a wrong byte is not re-examined (R122). -/
def pushToken (b : Byte) (s : State) : State :=
  let s₁ := acc b s
  if tokenDet b then
    { s₁ with dcnt := 0#32, fcnt := 0#2, st := if s₁.lenr = 0#32 then .csum else .data }
  else { raise .token s₁ with st := .waitStart }

/-- SYNC_PUSH in DATA (R131). -/
def pushData (b : Byte) (s : State) : Except Fault State :=
  match memWrite s.dcnt b (acc b s) with
  | .error f => .error f
  | .ok s₁ =>
    let s₂ := { s₁ with dcnt := s₁.dcnt + 1#32 }
    .ok (if s₂.dcnt = s₂.lenr then { s₂ with fcnt := 0#2, st := .csum } else s₂)

/-- The checksum residue is zero (R123): RCRC in variant A, RXOR in variant C. -/
def residueZero (s : State) : Bool := if variantC s then s.rxor == 0x00#8 else s.rcrc == 0x0000#16

/-- SYNC_PUSH in CSUM (R132); the residue is tested after the byte is taken. -/
def pushCsum (b : Byte) (s : State) : State :=
  let s₁ := acc b s
  if variantC s₁ = false ∧ s₁.fcnt = 0#2 then { s₁ with fcnt := 1#2 }
  else
    let s₂ := enterDone { s₁ with fcnt := 0#2, cksOk := residueZero s₁ }
    if s₂.cksOk then s₂ else raise .cksum s₂

/-- SYNC_PUSH in DONE (R134): the byte is dropped. -/
def pushDone (s : State) : State := raise .overrun s

/-- SYNC_PUSH (R125): exactly one state rule handles the byte; with ST = 7 "no rule handles it" (log 9). -/
def execSyncPush (d : Byte) (s : State) : Host.Outcome State Fault Refusal :=
  match s.st with
  | .waitStart => .next (respond 0#32 (pushWaitStart (dataByte d) s))
  | .seq => .next (respond 0#32 (pushSeq (dataByte d) s))
  | .size => .next (respond 0#32 (pushSize (dataByte d) s))
  | .token => .next (respond 0#32 (pushToken (dataByte d) s))
  | .data =>
    match pushData (dataByte d) s with
    | .ok t => .next (respond 0#32 t)
    | .error f => .fault f
  | .csum => .next (respond 0#32 (pushCsum (dataByte d) s))
  | .done => .next (respond 0#32 (pushDone s))
  | .unused => .fault .stUnused

/-- SYNC_RESET (R136). -/
def execSyncReset (s : State) : Host.Outcome State Fault Refusal := .next (respond 0#32 (syncClear s))

/-- SYNC_RELEASE (R137): no effect outside DONE. -/
def execSyncRelease (s : State) : Host.Outcome State Fault Refusal :=
  .next (respond 0#32 (if s.st = .done then { s with st := .waitStart } else s))

/-- RD_SEQ (R138), in every state. -/
def execRdSeq (s : State) : Host.Outcome State Fault Refusal := .next (respond (s.seqr.setWidth 32) s)

/-- RD_LEN (R140), in every state. -/
def execRdLen (s : State) : Host.Outcome State Fault Refusal := .next (respond s.lenr s)

/-- RD_PAYLOAD (R139): the next payload byte of the held frame, else ERR_RANGE and response 0. -/
def execRdPayload (s : State) : Host.Outcome State Fault Refusal :=
  if s.st = .done ∧ s.rptr < s.lenr then
    match memRead s.rptr s with
    | .ok b => .next (respond (b.setWidth 32) { s with rptr := s.rptr + 1#32 })
    | .error f => .fault f
  else .next (respond 0#32 (raise .range s))

/-- RPTR_CLR (R141), in every state. -/
def execRptrClr (s : State) : Host.Outcome State Fault Refusal := .next (respond 0#32 { s with rptr := 0#32 })

/-- RD_GCNT (R142), in every state. -/
def execRdGcnt (s : State) : Host.Outcome State Fault Refusal := .next (respond s.gcnt s)

end Sys2Proof.Machine
end

