-- ==== Sys2Proof/Machine/Xor.lean ====
section
/-! DEFINITION. The commands of the standalone XOR-checksum unit (spec/41_xor.md R108 to R110). -/

namespace Sys2Proof.Machine

/-- XOR_INIT (R108). -/
def execXorInit (s : State) : Host.Outcome State Fault Refusal := .next (respond 0#32 { s with xor := 0x00#8 })

/-- XOR_BYTE (R109). -/
def execXorByte (d : Byte) (s : State) : Host.Outcome State Fault Refusal :=
  .next (respond 0#32 { s with xor := s.xor ^^^ dataByte d })

/-- XOR_RD (R110). -/
def execXorRd (s : State) : Host.Outcome State Fault Refusal := .next (respond (s.xor.setWidth 32) s)

end Sys2Proof.Machine
end

