-- ==== Sys2Proof/Machine/Dispatch.lean ====
section
/-! DEFINITION. The one dispatch over the commands of spec/30_encoding.md R67: one arm per constructor. -/

namespace Sys2Proof.Machine

def exec (i : Instr) (s : State) : Host.Outcome State Fault Refusal :=
  match i with
  -- control and status, spec/43_control.md
  | .nop => Sys2Proof.Machine.execNop s
  | .softReset => Sys2Proof.Machine.execSoftReset s
  | .wrCtrl d => Sys2Proof.Machine.execWrCtrl d s
  | .rdCtrl => Sys2Proof.Machine.execRdCtrl s
  | .rdStatus => Sys2Proof.Machine.execRdStatus s
  | .clrErr d => Sys2Proof.Machine.execClrErr d s
  -- CRC-16 unit, spec/40_crc16.md
  | .crcInit => Sys2Proof.Machine.execCrcInit s
  | .crcByte b => Sys2Proof.Machine.execCrcByte b s
  | .crcRd => Sys2Proof.Machine.execCrcRd s
  -- XOR-checksum unit, spec/41_xor.md
  | .xorInit => Sys2Proof.Machine.execXorInit s
  | .xorByte b => Sys2Proof.Machine.execXorByte b s
  | .xorRd => Sys2Proof.Machine.execXorRd s
  -- frame synchronizer, spec/42_sync.md
  | .syncReset => Sys2Proof.Machine.execSyncReset s
  | .syncPush b => Sys2Proof.Machine.execSyncPush b s
  | .syncRelease => Sys2Proof.Machine.execSyncRelease s
  | .rdSeq => Sys2Proof.Machine.execRdSeq s
  | .rdLen => Sys2Proof.Machine.execRdLen s
  | .rdPayload => Sys2Proof.Machine.execRdPayload s
  | .rptrClr => Sys2Proof.Machine.execRptrClr s
  | .rdGcnt => Sys2Proof.Machine.execRdGcnt s

end Sys2Proof.Machine
end

