-- ==== Sys2Proof/Machine/Step.lean ====
section
/-! DEFINITION. One step: the host's next input at the port is taken and acted on as one indivisible transaction
(spec/10_state.md R16, R17; spec/20_memory.md R55). The block has no program counter and fetches nothing from a memory. -/

namespace Sys2Proof.Machine

/-- Executing one command word: the decoded command, or the illegal-command rule (R67, R68, R157). -/
def execWord (w : Half) (s : State) : Host.Outcome State Fault Refusal :=
  match decode w with
  | some i => exec i s
  | none => .next (illegalCommand s)

/-- One step of the machine. While the host does nothing the block changes no state (R17; log 4). -/
def step (s : State) : Host.Outcome State Fault Refusal :=
  match takeInput s with
  | none => .next s
  | some (.reset, t) => .next (hardReset t)
  | some (.command w, t) => execWord w t

/-- The state in which the host issues the command word with bits `w` next (log 3): the place the step takes its next
instruction from is the head of the port's inputs. -/
def State.withFetchWord (s : State) (nbits w : Nat) : State :=
  { s with inputs := .command (tableWord nbits w) :: s.inputs }

end Sys2Proof.Machine
end

