-- ==== Sys2Proof/Machine/Run.lean ====
section
/-! DEFINITION. Runs: "a finite sequence of commands from a start state" (spec/70_reset_and_hazards.md R201), and the
pseudo-instructions of spec/30_encoding.md R71. -/

namespace Sys2Proof.Machine

/-- The host issues one command word and the machine takes one step. -/
def issue (w : Half) (s : State) : Host.Outcome State Fault Refusal := step { s with inputs := .command w :: s.inputs }

/-- A run (R201): the host issues the words in order; the responses stand in the end state. -/
def issueAll : List Half → State → Host.Outcome State Fault Refusal
  | [], s => .next s
  | w :: ws, s =>
    match issue w s with
    | .next t => issueAll ws t
    | .fault f => .fault f
    | .refused r => .refused r

/-- The pseudo-instructions (R71). -/
inductive Pseudo where
  | crcBlock (bs : List Byte)
  | xorBlock (bs : List Byte)
  | pushBlock (bs : List Byte)
  | clrErrAll
  | selVariantA
  | selVariantC
  deriving DecidableEq, Repr

/-- The expansion of a pseudo-instruction (R71). -/
def expand : Pseudo → List Instr
  | .crcBlock bs => bs.map .crcByte
  | .xorBlock bs => bs.map .xorByte
  | .pushBlock bs => bs.map .syncPush
  | .clrErrAll => [.clrErr 0x7F#8]
  | .selVariantA => [.wrCtrl 0x00#8]
  | .selVariantC => [.wrCtrl 0x01#8]

/-- The command words of a list of commands. -/
def words (is : List Instr) : List Half := is.map encode

/-- SYNC_PUSH of every byte in order ("push s" of spec/95_test_vectors.md): PUSH_BLOCK. -/
def pushAll (bs : List Byte) (s : State) : Host.Outcome State Fault Refusal := issueAll (words (expand (.pushBlock bs))) s

end Sys2Proof.Machine
end

