-- ==== Sys2Proof/Machine/Asm.lean ====
section
/-! DEFINITION. The assembler syntax (spec/30_encoding.md R70) and its pseudo-instructions (R71). The assembler is software:
nothing the machine does depends on this file. Blanks, commas and letter case: log 15. -/

namespace Sys2Proof.Machine

/-- The mnemonic of a command (R67). -/
def mnemonic : Instr → String
  | .nop => "NOP"
  | .softReset => "SOFT_RESET"
  | .wrCtrl _ => "WR_CTRL"
  | .rdCtrl => "RD_CTRL"
  | .rdStatus => "RD_STATUS"
  | .clrErr _ => "CLR_ERR"
  | .crcInit => "CRC_INIT"
  | .crcByte _ => "CRC_BYTE"
  | .crcRd => "CRC_RD"
  | .xorInit => "XOR_INIT"
  | .xorByte _ => "XOR_BYTE"
  | .xorRd => "XOR_RD"
  | .syncReset => "SYNC_RESET"
  | .syncPush _ => "SYNC_PUSH"
  | .syncRelease => "SYNC_RELEASE"
  | .rdSeq => "RD_SEQ"
  | .rdLen => "RD_LEN"
  | .rdPayload => "RD_PAYLOAD"
  | .rptrClr => "RPTR_CLR"
  | .rdGcnt => "RD_GCNT"

/-- The sixteen hexadecimal digits. -/
def hexDigits : List Char := ['0', '1', '2', '3', '4', '5', '6', '7', '8', '9', 'A', 'B', 'C', 'D', 'E', 'F']

/-- A value below 16 as a digit. -/
def hexDigit (n : Nat) : Char := hexDigits.getD n '0'

/-- The value of a digit. -/
def hexValue (c : Char) : Option Nat := hexDigits.idxOf? c

/-- `imm8` as it is written, `0xNN` (R70). -/
def renderImm (b : Byte) : List Char := ['0', 'x', hexDigit (b.toNat / 16), hexDigit (b.toNat % 16)]

/-- A command as one line of assembly (R70): `MNEMONIC`, or `MNEMONIC imm8` for one that takes D. -/
def render (i : Instr) : List Char :=
  if i.takesD then (mnemonic i).toList ++ ' ' :: renderImm i.operand else (mnemonic i).toList

/-- A line without its comment: "`;` starts a comment". -/
def stripComment : List Char → List Char
  | [] => []
  | c :: cs => if c = ';' then [] else c :: stripComment cs

/-- A word collected in reverse, as a list of no or one token. -/
def flushToken : List Char → List (List Char)
  | [] => []
  | cs => [cs.reverse]

/-- The tokens of a line: words between blanks, and commas. -/
def tokensFrom : List Char → List Char → List (List Char)
  | cur, [] => flushToken cur
  | cur, c :: cs =>
    if c = ' ' || c = '\t' then flushToken cur ++ tokensFrom [] cs
    else if c = ',' then flushToken cur ++ [','] :: tokensFrom [] cs
    else tokensFrom (c :: cur) cs

/-- `0xNN`. -/
def parseImm : List Char → Option Byte
  | ['0', 'x', h, l] =>
    match hexValue h, hexValue l with
    | some a, some b => some (BitVec.ofNat 8 (16 * a + b))
    | _, _ => none
  | _ => none

/-- `b0, b1, ..., bn-1`. -/
def parseImms : List (List Char) → Option (List Byte)
  | [] => some []
  | [t] => (parseImm t).map fun b => [b]
  | t :: sep :: rest =>
    if sep = [','] ∧ rest ≠ [] then
      match parseImm t, parseImms rest with
      | some b, some bs => some (b :: bs)
      | _, _ => none
    else none

/-- The commands a mnemonic and its operands stand for (R67, R70, R71). -/
def commandsOf (m : String) (ops : List Byte) : Option (List Instr) :=
  match ops with
  | [] =>
    if m = "NOP" then some [.nop]
    else if m = "SOFT_RESET" then some [.softReset]
    else if m = "RD_CTRL" then some [.rdCtrl]
    else if m = "RD_STATUS" then some [.rdStatus]
    else if m = "CRC_INIT" then some [.crcInit]
    else if m = "CRC_RD" then some [.crcRd]
    else if m = "XOR_INIT" then some [.xorInit]
    else if m = "XOR_RD" then some [.xorRd]
    else if m = "SYNC_RESET" then some [.syncReset]
    else if m = "SYNC_RELEASE" then some [.syncRelease]
    else if m = "RD_SEQ" then some [.rdSeq]
    else if m = "RD_LEN" then some [.rdLen]
    else if m = "RD_PAYLOAD" then some [.rdPayload]
    else if m = "RPTR_CLR" then some [.rptrClr]
    else if m = "RD_GCNT" then some [.rdGcnt]
    else if m = "CLR_ERR_ALL" then some (expand .clrErrAll)
    else if m = "SEL_VARIANT_A" then some (expand .selVariantA)
    else if m = "SEL_VARIANT_C" then some (expand .selVariantC)
    else if m = "CRC_BLOCK" || m = "XOR_BLOCK" || m = "PUSH_BLOCK" then some []
    else none
  | b :: bs =>
    if m = "CRC_BLOCK" then some (expand (.crcBlock (b :: bs)))
    else if m = "XOR_BLOCK" then some (expand (.xorBlock (b :: bs)))
    else if m = "PUSH_BLOCK" then some (expand (.pushBlock (b :: bs)))
    else if bs ≠ [] then none
    else if m = "WR_CTRL" then some [.wrCtrl b]
    else if m = "CLR_ERR" then some [.clrErr b]
    else if m = "CRC_BYTE" then some [.crcByte b]
    else if m = "XOR_BYTE" then some [.xorByte b]
    else if m = "SYNC_PUSH" then some [.syncPush b]
    else none

/-- The command words of one line (R70); an empty or comment-only line has none, and a line that is no command is not
assembled. -/
def assembleLine (line : List Char) : Option (List Half) :=
  match tokensFrom [] (stripComment line) with
  | [] => some []
  | m :: rest => (parseImms rest).bind fun ops => (commandsOf (String.ofList m) ops).map words

end Sys2Proof.Machine
end

