-- ==== Sys2Proof/Safety.lean ====
section
/-! DEFINITION. What is true of every state a run reaches: the invariants of spec/42_sync.md R135, clause by clause, and the
further facts the rules give that the proofs need beside them. -/

namespace Sys2Proof.Machine

/-! ### R135, clause by clause -/

/-- R135(a): "ST is in 0 .. 6". -/
abbrev StInRange (s : State) : Prop := (stCode s.st).toNat ≤ 6

/-- R135(b): in TOKEN, DATA, CSUM and DONE the declared length is within the ceiling. -/
abbrev LengthWithinCeiling (s : State) : Prop :=
  (s.st = .token ∨ s.st = .data ∨ s.st = .csum ∨ s.st = .done) → s.lenr ≤ s.params.maxLen

/-- R135(c): "ST == DATA implies DCNT < LENR". -/
abbrev DataCountBelowLength (s : State) : Prop := s.st = .data → s.dcnt < s.lenr

/-- R135(d): "ST in {CSUM, DONE} implies DCNT == LENR". -/
abbrev DataCountIsLength (s : State) : Prop := (s.st = .csum ∨ s.st = .done) → s.dcnt = s.lenr

/-- R135(e), with `h` the payload bytes of the current frame pushed so far: "PBUF[0 .. LENR-1] holds the payload bytes of the
held frame, in order". It holds while they are taken as well, for the DCNT bytes stored by then. One state does not show which
bytes were pushed, so this clause stands beside the others with `h` as its argument. -/
abbrev HoldsPayload (s : State) (h : List Byte) : Prop :=
  (s.st = .data ∨ s.st = .csum ∨ s.st = .done) → s.pbuf.readBytes 0 s.dcnt.toNat = h

/-- The byte that the host's next command pushes, none if that command is another one. -/
def bytePushed (s : State) : List Byte :=
  match s.inputs with
  | .command w :: _ =>
    match decode w with
    | some (.syncPush b) => [b]
    | _ => []
  | _ => []

/-- The payload bytes of the current frame after the next step, from those before it: a frame's payload starts after TOKEN, and
grows by the bytes pushed in DATA. -/
def payloadAfter (s : State) (h : List Byte) : List Byte :=
  match s.st with
  | .token => []
  | .data => h ++ bytePushed s
  | .waitStart | .seq | .size | .csum | .done | .unused => h

/-- R135(f): "ST != WAIT_START implies GCNT == 0". -/
abbrev GarbageCountedOnlyWaiting (s : State) : Prop := s.st ≠ .waitStart → s.gcnt = 0#32

/-- R135(g): the bounds of FCNT. -/
abbrev FieldIndexInRange (s : State) : Prop :=
  (variantC s = false → s.st = .seq ∨ s.st = .csum → s.fcnt.toNat < 2) ∧
  (variantC s = true → s.st = .seq → s.fcnt = 0#2) ∧
  (s.st = .token ∨ s.st = .data ∨ s.st = .done ∨ s.st = .waitStart → s.fcnt = 0#2) ∧
  (variantC s = false → s.st = .size → s.fcnt.toNat < 4) ∧
  (variantC s = true → s.st = .size → s.fcnt.toNat < 2)

/-- R135(h): "In variant C, LENR < 2^16 and SEQR < 2^8". -/
abbrev VariantCFieldsNarrow (s : State) : Prop := variantC s = true → s.lenr.toNat < 2 ^ 16 ∧ s.seqr.toNat < 2 ^ 8

/-- The invariants of R135 that one state shows: all but (e), which is `HoldsPayload`. -/
abbrev SyncInvariant (s : State) : Prop :=
  StInRange s ∧ LengthWithinCeiling s ∧ DataCountBelowLength s ∧ DataCountIsLength s ∧
    GarbageCountedOnlyWaiting s ∧ FieldIndexInRange s ∧ VariantCFieldsNarrow s

/-! ### What else holds of every reachable state -/

/-- CTRL[7:3] are 0 (spec/10_state.md R23). -/
abbrev CtrlReservedZero (s : State) : Prop := s.ctrl.extractLsb' 3 5 = 0#5

/-- PBUF is in canonical form and lists only indices that exist (spec/20_memory.md R46). -/
abbrev PbufWellFormed (s : State) : Prop := s.pbuf.wf ∧ s.pbuf.within s.params.maxLen.toNat

/-- In variant C, FCNT stays 0 in CSUM, where there is one checksum byte (R116, R132). -/
abbrev VariantCCsumIndexZero (s : State) : Prop := variantC s = true → s.st = .csum → s.fcnt = 0#2

/-- CKS_OK and IS_EVT are 0 from START until the frame enters DONE (spec/10_state.md R35, R36). -/
abbrev FrameBitsClearMidFrame (s : State) : Prop :=
  (s.st = .seq ∨ s.st = .size ∨ s.st = .token ∨ s.st = .data ∨ s.st = .csum) → s.cksOk = false ∧ s.isEvt = false

/-- In DONE, CKS_OK says whether the residue was 0 and IS_EVT whether the sequence is the reserved one (R132, R133). -/
abbrev HeldFrameBits (s : State) : Prop :=
  s.st = .done → s.cksOk = residueZero s ∧ s.isEvt = isEvent s.params (variantC s) s.seqr

/-- In DONE the read pointer is within the payload (R139). -/
abbrev ReadPointerWithinPayload (s : State) : Prop := s.st = .done → s.rptr ≤ s.lenr

/-- The whole invariant of the machine. -/
abbrev MachineInvariant (s : State) : Prop :=
  SyncInvariant s ∧ CtrlReservedZero s ∧ PbufWellFormed s ∧ VariantCCsumIndexZero s ∧ FrameBitsClearMidFrame s ∧
    HeldFrameBits s ∧ ReadPointerWithinPayload s

/-! ### Terms of the claims -/

/-- The read commands, the only ones whose response is not 0 (spec/30_encoding.md R64). -/
def isReadCommand : Instr → Bool
  | .rdCtrl | .rdStatus | .crcRd | .xorRd | .rdSeq | .rdLen | .rdPayload | .rdGcnt => true
  | .nop | .softReset | .wrCtrl _ | .clrErr _ | .crcInit | .crcByte _ | .xorInit | .xorByte _ => false
  | .syncReset | .syncPush _ | .syncRelease | .rptrClr => false

/-- `n` responses of a command that answers 0. -/
def zeros (n : Nat) : List Word := List.replicate n 0#32

end Sys2Proof.Machine
end

