-- ==== Sys2Proof/Certificates/Slice0/Obligations.lean ====
section
/-! DEFINITION. The statements for the provers. "log <n>" is notes/assumptions/<n>.md; a statement that rests on a choice of the
model says so. The registers' values are written out from the rules, not taken from the model's operations. -/

open Sys2Proof Sys2Proof.Machine

/-! ### Encoding and the step -/

/-- R63, R65, R67, R70: decoding an encoded command gives it back, and whatever a word decodes to has the word's opcode and,
where it takes D, the word's D; encoding it gives the word with an ignored D written as 0 (that the constructor drops an
ignored D is log 14). -/
def Obligations.DecodeAndEncodeAgree : Prop :=
  (∀ i : Instr, decode (encode i) = some i) ∧
  ∀ (w : Half) (i : Instr), decode w = some i →
    opcField w = i.opcode ∧
    (i.takesD = true → dField w = i.operand ∧ encode i = w) ∧
    (i.takesD = false → encode i = opcField w ++ 0x00#8)

/-- R68, R157: the illegal opcodes are the 236 of the four ranges, and an illegal command raises ERR_ILLEGAL, changes nothing
else and answers 0. -/
def Obligations.IllegalOpcodesAndTheirEffect : Prop :=
  (∀ w : Half, decode w = none ↔
    (0x06 ≤ (opcField w).toNat ∧ (opcField w).toNat ≤ 0x0F) ∨ (0x13 ≤ (opcField w).toNat ∧ (opcField w).toNat ≤ 0x1F) ∨
    (0x23 ≤ (opcField w).toNat ∧ (opcField w).toNat ≤ 0x2F) ∨ (0x38 ≤ (opcField w).toNat ∧ (opcField w).toNat ≤ 0xFF)) ∧
  ((List.range 256).filter fun o => (decodeFields (BitVec.ofNat 8 o) 0x00#8).isNone).length = 236 ∧
  ∀ (w : Half) (s : State) (rest : List HostInput), decode w = none → s.inputs = .command w :: rest →
    step s = .next { s with inputs := rest, err := s.err ||| 0x40#7, resps := s.resps ++ [0#32] }

/-- R65, R66: where D is ignored, any value of it selects the same command; WR_CTRL ignores D[7:3] and CLR_ERR D[7]. -/
def Obligations.IgnoredBitsOfDHaveNoEffect : Prop :=
  (∀ (opc d d' : Byte) (i : Instr), decodeFields opc d = some i → i.takesD = false → decodeFields opc d' = some i) ∧
  (∀ (d d' : Byte) (s : State), d.extractLsb' 0 3 = d'.extractLsb' 0 3 → exec (.wrCtrl d) s = exec (.wrCtrl d') s) ∧
  (∀ (d d' : Byte) (s : State), d.extractLsb' 0 7 = d'.extractLsb' 0 7 → exec (.clrErr d) s = exec (.clrErr d') s)

/-- R67, R70: words written out from the opcode map decode to the commands they stand for. -/
def Obligations.WordsOfTheOpcodeMapDecode : Prop :=
  decode 0x00FF#16 = some .nop ∧ decode 0x0207#16 = some (.wrCtrl 0x07#8) ∧ decode 0x0540#16 = some (.clrErr 0x40#8) ∧
  decode 0x1000#16 = some .crcInit ∧ decode 0x11CD#16 = some (.crcByte 0xCD#8) ∧ decode 0x2105#16 = some (.xorByte 0x05#8) ∧
  decode 0x311B#16 = some (.syncPush 0x1B#8) ∧ decode 0x3500#16 = some .rdPayload ∧ decode 0x3700#16 = some .rdGcnt ∧
  decode 0x3800#16 = none

/-- R16, R55, R67: the step takes the host's next command and is the execution of the decoded command on the state with that
command taken. That a command waits in a list at the port is the model's choice (log 3), and so is the step of an idle port,
which changes nothing (R17; log 4). -/
def Obligations.StepExecutesTheIssuedCommand : Prop :=
  (∀ (s : State) (w : Half) (rest : List HostInput) (i : Instr), s.inputs = .command w :: rest → decode w = some i →
    step s = exec i { s with inputs := rest }) ∧
  (∀ s : State, s.inputs = [] → step s = .next s)

/-- R190, R191, R42: after a pulse of the reset input every item of state has its reset value, and PBUF keeps its content. That
the pulse is one input of the port, which answers nothing, is the model's choice (log 6). -/
def Obligations.ResetPulseGivesResetValues : Prop :=
  ∀ (s : State) (rest : List HostInput), s.inputs = .reset :: rest →
    step s = .next
      { params := s.params, ctrl := 0x00#8, err := 0#7, crc := s.params.crcSeed, xor := 0x00#8, st := .waitStart,
        seqr := 0#16, lenr := 0#32, fcnt := 0#2, dcnt := 0#32, rcrc := s.params.crcSeed, rxor := 0x00#8, cksOk := false,
        isEvt := false, rptr := 0#32, gcnt := 0#32, pbuf := s.pbuf, inputs := rest, resps := s.resps }

/-! ### Control and status commands -/

/-- R151: NOP, for every D. -/
def Obligations.NopOnlyAnswersZero : Prop :=
  (∀ d : Byte, decode (0x00#8 ++ d) = some .nop) ∧
  ∀ s : State, exec .nop s = .next { s with resps := s.resps ++ [0#32] }

/-- R152: SOFT_RESET, for every D: every item of R18 takes its reset value but for PBUF, which is not changed; `irq` is 0. -/
def Obligations.SoftResetRestoresResetValues : Prop :=
  (∀ d : Byte, decode (0x01#8 ++ d) = some .softReset) ∧
  ∀ s : State, ∃ t : State, exec .softReset s = .next t ∧ irq t = false ∧
    t = { params := s.params, ctrl := 0x00#8, err := 0#7, crc := s.params.crcSeed, xor := 0x00#8, st := .waitStart,
          seqr := 0#16, lenr := 0#32, fcnt := 0#2, dcnt := 0#32, rcrc := s.params.crcSeed, rxor := 0x00#8, cksOk := false,
          isEvt := false, rptr := 0#32, gcnt := 0#32, pbuf := s.pbuf, inputs := s.inputs, resps := s.resps ++ [0#32] }

/-- R153: WR_CTRL. The same VARIANT leaves the synchronizer alone; another VARIANT abandons any frame. -/
def Obligations.WriteCtrlKeepsOrDropsTheFrame : Prop :=
  (∀ d : Byte, decode (0x02#8 ++ d) = some (.wrCtrl d)) ∧
  ∀ (d : Byte) (s : State),
    (d.getLsbD 0 = s.ctrl.getLsbD 0 →
      exec (.wrCtrl d) s = .next { s with ctrl := (d.extractLsb' 0 3).setWidth 8, resps := s.resps ++ [0#32] }) ∧
    (d.getLsbD 0 ≠ s.ctrl.getLsbD 0 →
      exec (.wrCtrl d) s = .next
        { s with
          ctrl := (d.extractLsb' 0 3).setWidth 8
          st := .waitStart, seqr := 0x0000#16, lenr := 0#32, fcnt := 0#2, dcnt := 0#32, rcrc := s.params.crcSeed
          rxor := 0x00#8, cksOk := false, isEvt := false, rptr := 0#32, gcnt := 0#32, resps := s.resps ++ [0#32] })

/-- R154, R23: RD_CTRL, for every D: CTRL zero-extended, with the reserved bits read as 0 in every state. -/
def Obligations.ReadCtrlAnswersCtrl : Prop :=
  (∀ d : Byte, decode (0x03#8 ++ d) = some .rdCtrl) ∧
  ∀ s : State, exec .rdCtrl s = .next { s with resps := s.resps ++ [(s.ctrl.extractLsb' 0 3).setWidth 32] }

/-- R155, R24, R28: RD_STATUS, for every D, answers the STATUS word composed field by field and changes nothing else. -/
def Obligations.ReadStatusComposesTheFields : Prop :=
  (∀ d : Byte, decode (0x04#8 ++ d) = some .rdStatus) ∧
  stCode .waitStart = 0#3 ∧ stCode .seq = 1#3 ∧ stCode .size = 2#3 ∧ stCode .token = 3#3 ∧ stCode .data = 4#3 ∧
  stCode .csum = 5#3 ∧ stCode .done = 6#3 ∧ stCode .unused = 7#3 ∧
  ∀ s : State, ∃ v : Word, exec .rdStatus s = .next { s with resps := s.resps ++ [v] } ∧
    v.extractLsb' 0 3 = stCode s.st ∧ v.getLsbD 3 = s.ctrl.getLsbD 0 ∧ v.getLsbD 4 = decide (s.st = .done) ∧
    v.getLsbD 5 = s.cksOk ∧ v.getLsbD 6 = s.isEvt ∧ v.getLsbD 7 = false ∧ v.extractLsb' 8 7 = s.err ∧
    v.getLsbD 15 = false ∧ v.getLsbD 16 = decide (s.crc = 0x0000#16) ∧ v.getLsbD 17 = decide (s.xor = 0x00#8) ∧
    v.getLsbD 18 = decide ((s.ctrl.getLsbD 1 = true ∧ s.st = .done) ∨ (s.ctrl.getLsbD 2 = true ∧ s.err ≠ 0#7)) ∧
    v.extractLsb' 19 13 = 0#13

/-- R156: CLR_ERR clears the flags its mask selects and keeps the others; D[7] is ignored. -/
def Obligations.ClearErrorsByMask : Prop :=
  (∀ d : Byte, decode (0x05#8 ++ d) = some (.clrErr d)) ∧
  ∀ (d : Byte) (s : State), ∃ e : BitVec 7,
    exec (.clrErr d) s = .next { s with err := e, resps := s.resps ++ [0#32] } ∧
    ∀ i, i < 7 → e.getLsbD i = (s.err.getLsbD i && !d.getLsbD i)

/-! ### CRC-16 unit -/

/-- R97: CRC_INIT, for every D; CRC_ZERO reads 0 afterwards with the seed 0xFFFF. -/
def Obligations.CrcInitLoadsTheSeed : Prop :=
  (∀ d : Byte, decode (0x10#8 ++ d) = some .crcInit) ∧
  ∀ s : State, ∃ t : State, exec .crcInit s = .next t ∧ t = { s with crc := s.params.crcSeed, resps := s.resps ++ [0#32] } ∧
    (s.params.crcSeed = 0xFFFF#16 → crcZero t = false)

/-- R98, R92: CRC_BYTE folds the byte in by the eight shifts of `crc16_step`. -/
def Obligations.CrcByteFoldsOneByte : Prop :=
  (∀ d : Byte, decode (0x11#8 ++ d) = some (.crcByte d)) ∧
  (∀ poly c : Half, ∀ b : Byte, crc16Step poly c b =
    Nat.rec (c ^^^ b.setWidth 16) (fun _ r => if r.getLsbD 0 = true then (r >>> 1) ^^^ poly else r >>> 1) 8) ∧
  ∀ (b : Byte) (s : State),
    exec (.crcByte b) s = .next { s with crc := crc16Step s.params.crcPolyR s.crc b, resps := s.resps ++ [0#32] }

/-- R99: CRC_RD, for every D, answers CRC zero-extended and changes nothing else. -/
def Obligations.CrcReadAnswersCrc : Prop :=
  (∀ d : Byte, decode (0x12#8 ++ d) = some .crcRd) ∧
  ∀ s : State, exec .crcRd s = .next { s with resps := s.resps ++ [s.crc.setWidth 32] }

/-- R95: the laws of `crc16_step`, (a) to (c) for every polynomial and (d) for every polynomial whose top bit is 1, as that of
0x8408 is. -/
def Obligations.CrcStepLaws : Prop :=
  ∀ poly : Half,
    crc16Step poly 0x0000#16 0x00#8 = 0x0000#16 ∧
    (∀ (c₁ c₂ : Half) (b₁ b₂ : Byte),
      crc16Step poly (c₁ ^^^ c₂) (b₁ ^^^ b₂) = crc16Step poly c₁ b₁ ^^^ crc16Step poly c₂ b₂) ∧
    (∀ c : Half, crc16Step poly c (c.extractLsb' 0 8) = c >>> 8) ∧
    (poly.getLsbD 15 = true → ∀ b : Byte, Function.Bijective fun c : Half => crc16Step poly c b)

/-- R94: the table form of `crc16_step` for every polynomial, and the 256 printed values for 0x8408. -/
def Obligations.CrcTableFormIsTheStep : Prop :=
  (∀ (poly c : Half) (b : Byte), crc16Step poly c b =
    (c >>> 8) ^^^ crc16Step poly 0x0000#16 ((c ^^^ b.setWidth 16).extractLsb' 0 8)) ∧
  (∀ i : Nat, i < 256 → crcTable[i]? = some (crc16Step 0x8408#16 0x0000#16 (BitVec.ofNat 8 i))) ∧
  ∀ (c : Half) (b : Byte), crc16TableStep c b = crc16Step 0x8408#16 c b

/-- R96: the residue law, for every polynomial and every seed; appending high byte first is in general no residue. -/
def Obligations.CrcResidueIsZero : Prop :=
  (∀ (p : Params) (m : List Byte), crc16 p (m ++ [(crc16 p m).extractLsb' 0 8, (crc16 p m).extractLsb' 8 8]) = 0x0000#16) ∧
  crc16 Params.reference [0x00#8] = 0x0F87#16 ∧ crc16 Params.reference [0x00#8, 0x0F#8, 0x87#8] = 0x4A4C#16

/-- R123: for the polynomial 0x8408 the residue is zero exactly when the two appended bytes are the CRC's, low byte first; in
variant C exactly when the byte is the XOR of the covered bytes. -/
def Obligations.ZeroResidueIffChecksumMatches : Prop :=
  (∀ (p : Params) (m : List Byte) (x y : Byte), p.crcPolyR = 0x8408#16 →
    (crc16 p (m ++ [x, y]) = 0x0000#16 ↔ x = (crc16 p m).extractLsb' 0 8 ∧ y = (crc16 p m).extractLsb' 8 8)) ∧
  ∀ (m : List Byte) (x : Byte), xor8 (m ++ [x]) = 0x00#8 ↔ x = xor8 m

/-! ### XOR unit -/

/-- R108: XOR_INIT, for every D; XOR_ZERO reads 1 afterwards. -/
def Obligations.XorInitClears : Prop :=
  (∀ d : Byte, decode (0x20#8 ++ d) = some .xorInit) ∧
  ∀ s : State, ∃ t : State, exec .xorInit s = .next t ∧ t = { s with xor := 0x00#8, resps := s.resps ++ [0#32] } ∧
    xorZero t = true

/-- R109: XOR_BYTE. -/
def Obligations.XorByteFoldsOneByte : Prop :=
  (∀ d : Byte, decode (0x21#8 ++ d) = some (.xorByte d)) ∧
  ∀ (b : Byte) (s : State), exec (.xorByte b) s = .next { s with xor := s.xor ^^^ b, resps := s.resps ++ [0#32] }

/-- R110: XOR_RD, for every D, answers XOR zero-extended and changes nothing else. -/
def Obligations.XorReadAnswersXor : Prop :=
  (∀ d : Byte, decode (0x22#8 ++ d) = some .xorRd) ∧
  ∀ s : State, exec .xorRd s = .next { s with resps := s.resps ++ [s.xor.setWidth 32] }

/-- R112: the residue of the XOR, that order does not matter, and that it takes a string in two parts. -/
def Obligations.XorLaws : Prop :=
  (∀ m : List Byte, xor8 (m ++ [xor8 m]) = 0x00#8) ∧
  (∀ m m' : List Byte, m.Perm m' → xor8 m = xor8 m') ∧
  ∀ m₁ m₂ : List Byte, xor8 (m₁ ++ m₂) = xor8 m₁ ^^^ xor8 m₂

/-! ### The units as frame generators -/

/-- R100: CRC_INIT, CRC_BYTE of the covered bytes, CRC_RD: the response is the CRC whose bytes complete frameA; the two bytes
folded in as well leave CRC = 0 and CRC_ZERO = 1. -/
def Obligations.CrcUnitGeneratesFrameA : Prop :=
  ∀ (s : State) (seq : Half) (payload : List Byte), ∃ (t u : State) (c : Half),
    issueAll (words ([.crcInit] ++ expand (.crcBlock (coveredA seq payload)) ++ [.crcRd])) s = .next t ∧
    t = { s with crc := c, resps := s.resps ++ zeros (1 + (coveredA seq payload).length) ++ [c.setWidth 32] } ∧
    frameA s.params seq payload = coveredA seq payload ++ [c.extractLsb' 0 8, c.extractLsb' 8 8] ∧
    issueAll (words [.crcByte (c.extractLsb' 0 8), .crcByte (c.extractLsb' 8 8)]) t = .next u ∧
    u.crc = 0x0000#16 ∧ crcZero u = true

/-- R111: XOR_INIT, XOR_BYTE of the covered bytes, XOR_RD: the response is the byte that completes frameC. -/
def Obligations.XorUnitGeneratesFrameC : Prop :=
  ∀ (s : State) (seq : Byte) (payload : List Byte), ∃ (t : State) (x : Byte),
    issueAll (words ([.xorInit] ++ expand (.xorBlock (coveredC seq payload)) ++ [.xorRd])) s = .next t ∧
    t = { s with xor := x, resps := s.resps ++ zeros (1 + (coveredC seq payload).length) ++ [x.setWidth 32] } ∧
    frameC seq payload = coveredC seq payload ++ [x]

/-! ### SYNC_PUSH, state by state -/

/-- R126, R127: in WAIT_START a START byte starts a frame and every other byte is garbage, counted up to 2^32-1; ERR_SYNC is
raised when the window is not 0 and reached. -/
def Obligations.PushInWaitStart : Prop :=
  ∀ (b : Byte) (s : State), s.st = .waitStart →
    (b = 0x1B#8 → exec (.syncPush b) s = .next
      { s with
        seqr := 0x0000#16, lenr := 0#32, fcnt := 0#2, dcnt := 0#32, cksOk := false, isEvt := false, gcnt := 0#32
        rcrc := crc16Step s.params.crcPolyR s.params.crcSeed b, rxor := b, st := .seq, resps := s.resps ++ [0#32] }) ∧
    (b ≠ 0x1B#8 → ∃ g : Word, g.toNat = min (s.gcnt.toNat + 1) (2 ^ 32 - 1) ∧
      exec (.syncPush b) s = .next
        { s with
          gcnt := g
          err := if s.params.resyncWindow ≠ 0#32 ∧ s.params.resyncWindow ≤ g then s.err ||| 0x08#7 else s.err
          resps := s.resps ++ [0#32] })

/-- R128, R117: in SEQ the sequence is taken, two bytes low byte first in variant A and one byte zero-extended in variant C. -/
def Obligations.PushInSeq : Prop :=
  ∀ (b : Byte) (s : State), s.st = .seq →
    (s.ctrl.getLsbD 0 = false → s.fcnt = 0#2 → exec (.syncPush b) s = .next
      { s with
        rcrc := crc16Step s.params.crcPolyR s.rcrc b, rxor := s.rxor ^^^ b
        seqr := s.seqr.extractLsb' 8 8 ++ b, fcnt := 1#2, resps := s.resps ++ [0#32] }) ∧
    (s.ctrl.getLsbD 0 = false → s.fcnt ≠ 0#2 → exec (.syncPush b) s = .next
      { s with
        rcrc := crc16Step s.params.crcPolyR s.rcrc b, rxor := s.rxor ^^^ b
        seqr := b ++ s.seqr.extractLsb' 0 8, fcnt := 0#2, st := .size, resps := s.resps ++ [0#32] }) ∧
    (s.ctrl.getLsbD 0 = true → exec (.syncPush b) s = .next
      { s with
        rcrc := crc16Step s.params.crcPolyR s.rcrc b, rxor := s.rxor ^^^ b
        seqr := b.setWidth 16, fcnt := 0#2, st := .size, resps := s.resps ++ [0#32] })

/-- R129, R117, R121: in SIZE the length is taken, four bytes low byte first in variant A and two bytes high byte first in
variant C; after the last one a length above MAX_LEN raises ERR_LEN and abandons the frame. -/
def Obligations.PushInSize : Prop :=
  ∀ (b : Byte) (s : State), s.st = .size →
    ∀ s₁ : State,
      s₁ = { s with
             rcrc := crc16Step s.params.crcPolyR s.rcrc b, rxor := s.rxor ^^^ b, resps := s.resps ++ [0#32] } →
    (s.ctrl.getLsbD 0 = false → s.fcnt = 0#2 →
      exec (.syncPush b) s = .next { s₁ with lenr := s.lenr.extractLsb' 8 24 ++ b, fcnt := 1#2 }) ∧
    (s.ctrl.getLsbD 0 = false → s.fcnt = 1#2 →
      exec (.syncPush b) s = .next
        { s₁ with lenr := s.lenr.extractLsb' 16 16 ++ b ++ s.lenr.extractLsb' 0 8, fcnt := 2#2 }) ∧
    (s.ctrl.getLsbD 0 = false → s.fcnt = 2#2 →
      exec (.syncPush b) s = .next
        { s₁ with lenr := s.lenr.extractLsb' 24 8 ++ b ++ s.lenr.extractLsb' 0 16, fcnt := 3#2 }) ∧
    (s.ctrl.getLsbD 0 = false → s.fcnt = 3#2 → ∀ l : Word, l = b ++ s.lenr.extractLsb' 0 24 →
      exec (.syncPush b) s = .next
        (if l ≤ s.params.maxLen then { s₁ with lenr := l, fcnt := 0#2, st := .token }
         else { s₁ with lenr := l, fcnt := 0#2, st := .waitStart, err := s.err ||| 0x02#7 })) ∧
    (s.ctrl.getLsbD 0 = true → s.fcnt = 0#2 →
      exec (.syncPush b) s = .next
        { s₁ with lenr := s.lenr.extractLsb' 16 16 ++ b ++ s.lenr.extractLsb' 0 8, fcnt := 1#2 }) ∧
    (s.ctrl.getLsbD 0 = true → s.fcnt = 1#2 → ∀ l : Word, l = s.lenr.extractLsb' 8 24 ++ b →
      exec (.syncPush b) s = .next
        (if l ≤ s.params.maxLen then { s₁ with lenr := l, fcnt := 0#2, st := .token }
         else { s₁ with lenr := l, fcnt := 0#2, st := .waitStart, err := s.err ||| 0x02#7 }))

/-- R130, R122, R117: in TOKEN the byte 0x0E goes on to DATA, or to CSUM for an empty payload; every other byte, 0x1B too,
raises ERR_TOKEN and abandons the frame, and is not counted as garbage. -/
def Obligations.PushInToken : Prop :=
  ∀ (b : Byte) (s : State), s.st = .token →
    (b = 0x0E#8 → exec (.syncPush b) s = .next
      { s with
        rcrc := crc16Step s.params.crcPolyR s.rcrc b, rxor := s.rxor ^^^ b
        dcnt := 0#32, fcnt := 0#2, st := if s.lenr = 0#32 then .csum else .data, resps := s.resps ++ [0#32] }) ∧
    (b ≠ 0x0E#8 → exec (.syncPush b) s = .next
      { s with
        rcrc := crc16Step s.params.crcPolyR s.rcrc b, rxor := s.rxor ^^^ b
        err := s.err ||| 0x04#7, st := .waitStart, resps := s.resps ++ [0#32] })

/-- R131, R47, R117: in DATA the byte goes to PBUF[DCNT], every other byte of PBUF reads as before, and the last payload byte
goes on to CSUM. -/
def Obligations.PushInData : Prop :=
  ∀ (b : Byte) (s : State), s.st = .data → s.dcnt < s.params.maxLen → ∃ m : Memory,
    m.read s.dcnt.toNat = b ∧ (∀ a, a ≠ s.dcnt.toNat → m.read a = s.pbuf.read a) ∧ (s.pbuf.wf → m.wf) ∧
    exec (.syncPush b) s = .next
      { s with
        rcrc := crc16Step s.params.crcPolyR s.rcrc b, rxor := s.rxor ^^^ b
        pbuf := m, dcnt := s.dcnt + 1#32
        fcnt := if s.dcnt + 1#32 = s.lenr then 0#2 else s.fcnt
        st := if s.dcnt + 1#32 = s.lenr then .csum else .data
        resps := s.resps ++ [0#32] }

/-- R132, R133, R117: in CSUM the last checksum byte delivers the frame, with CKS_OK by the residue after that byte, IS_EVT by
the reserved sequence value, and ERR_CKSUM when the residue is not 0. -/
def Obligations.PushInCsum : Prop :=
  ∀ (b : Byte) (s : State), s.st = .csum → ∀ (r : Half) (x : Byte),
    r = crc16Step s.params.crcPolyR s.rcrc b → x = s.rxor ^^^ b →
    (s.ctrl.getLsbD 0 = false → s.fcnt = 0#2 →
      exec (.syncPush b) s = .next { s with rcrc := r, rxor := x, fcnt := 1#2, resps := s.resps ++ [0#32] }) ∧
    (s.ctrl.getLsbD 0 = false → s.fcnt ≠ 0#2 →
      exec (.syncPush b) s = .next
        { s with
          rcrc := r, rxor := x, fcnt := 0#2, cksOk := decide (r = 0x0000#16), isEvt := decide (s.seqr = 0xFFFF#16)
          rptr := 0#32, st := .done, err := if r = 0x0000#16 then s.err else s.err ||| 0x01#7
          resps := s.resps ++ [0#32] }) ∧
    (s.ctrl.getLsbD 0 = true →
      exec (.syncPush b) s = .next
        { s with
          rcrc := r, rxor := x, fcnt := 0#2, cksOk := decide (x = 0x00#8)
          isEvt := s.params.eventSeqC.any fun e => s.seqr == e.setWidth 16
          rptr := 0#32, st := .done, err := if x = 0x00#8 then s.err else s.err ||| 0x01#7
          resps := s.resps ++ [0#32] })

/-- R134: in DONE the byte is dropped, 0x1B too: ERR_OVERRUN and nothing else. -/
def Obligations.PushInDone : Prop :=
  ∀ (b : Byte) (s : State), s.st = .done →
    exec (.syncPush b) s = .next { s with err := s.err ||| 0x10#7, resps := s.resps ++ [0#32] }

/-! ### The other synchronizer commands -/

/-- R136: SYNC_RESET, for every D and in every state. -/
def Obligations.SyncResetAbandonsTheFrame : Prop :=
  (∀ d : Byte, decode (0x30#8 ++ d) = some .syncReset) ∧
  ∀ s : State, exec .syncReset s = .next
    { s with
      st := .waitStart, seqr := 0x0000#16, lenr := 0#32, fcnt := 0#2, dcnt := 0#32, rcrc := s.params.crcSeed
      rxor := 0x00#8, cksOk := false, isEvt := false, rptr := 0#32, gcnt := 0#32, resps := s.resps ++ [0#32] }

/-- R137: SYNC_RELEASE, for every D: ST only, and only in DONE. -/
def Obligations.SyncReleaseLeavesDone : Prop :=
  (∀ d : Byte, decode (0x32#8 ++ d) = some .syncRelease) ∧
  ∀ s : State,
    (s.st = .done → exec .syncRelease s = .next { s with st := .waitStart, resps := s.resps ++ [0#32] }) ∧
    (s.st ≠ .done → exec .syncRelease s = .next { s with resps := s.resps ++ [0#32] })

/-- R138: RD_SEQ, for every D and in every state; in variant C resp[31:8] = 0 where the invariant holds. -/
def Obligations.ReadSeqAnswersSeqr : Prop :=
  (∀ d : Byte, decode (0x33#8 ++ d) = some .rdSeq) ∧
  (∀ s : State, exec .rdSeq s = .next { s with resps := s.resps ++ [s.seqr.setWidth 32] }) ∧
  ∀ s : State, SyncInvariant s → s.ctrl.getLsbD 0 = true → (s.seqr.setWidth 32).extractLsb' 8 24 = 0#24

/-- R140: RD_LEN, for every D and in every state. -/
def Obligations.ReadLenAnswersLenr : Prop :=
  (∀ d : Byte, decode (0x34#8 ++ d) = some .rdLen) ∧
  ∀ s : State, exec .rdLen s = .next { s with resps := s.resps ++ [s.lenr] }

/-- R139, R48: RD_PAYLOAD, for every D: in DONE with RPTR < LENR, where LENR is within the ceiling, the byte PBUF[RPTR], and RPTR
goes up; otherwise ERR_RANGE and 0. -/
def Obligations.ReadPayloadAnswersTheNextByte : Prop :=
  (∀ d : Byte, decode (0x35#8 ++ d) = some .rdPayload) ∧
  (∀ s : State, s.lenr ≤ s.params.maxLen → s.st = .done → s.rptr < s.lenr →
    exec .rdPayload s = .next
      { s with rptr := s.rptr + 1#32, resps := s.resps ++ [(s.pbuf.read s.rptr.toNat).setWidth 32] }) ∧
  ∀ s : State, ¬ (s.st = .done ∧ s.rptr < s.lenr) →
    exec .rdPayload s = .next { s with err := s.err ||| 0x20#7, resps := s.resps ++ [0#32] }

/-- R141: RPTR_CLR, for every D and in every state. -/
def Obligations.ReadPointerClear : Prop :=
  (∀ d : Byte, decode (0x36#8 ++ d) = some .rptrClr) ∧
  ∀ s : State, exec .rptrClr s = .next { s with rptr := 0#32, resps := s.resps ++ [0#32] }

/-- R142: RD_GCNT, for every D and in every state; 0 outside WAIT_START where the invariant holds. -/
def Obligations.ReadGarbageCount : Prop :=
  (∀ d : Byte, decode (0x37#8 ++ d) = some .rdGcnt) ∧
  (∀ s : State, exec .rdGcnt s = .next { s with resps := s.resps ++ [s.gcnt] }) ∧
  ∀ s : State, SyncInvariant s → s.st ≠ .waitStart → s.gcnt = 0#32

/-- The model's choice (log 8, log 9): a command stops only where no rule gives an effect, in states the invariant rules
out, and is never refused. R166 is the rule beside it: the block itself never stops. -/
def Obligations.StopsOnlyWhereNoRuleApplies : Prop :=
  (∀ (i : Instr) (s : State) (f : Fault), exec i s = .fault f ↔
    (∃ b, i = .syncPush b ∧ s.st = .unused ∧ f = .stUnused) ∨
    (∃ b, i = .syncPush b ∧ s.st = .data ∧ s.params.maxLen ≤ s.dcnt ∧ f = .pbufOutOfRange) ∨
    (i = .rdPayload ∧ s.st = .done ∧ s.rptr < s.lenr ∧ s.params.maxLen ≤ s.rptr ∧ f = .pbufOutOfRange)) ∧
  (∀ (i : Instr) (s : State) (f : Fault), MachineInvariant s → exec i s ≠ .fault f) ∧
  (∀ (i : Instr) (s : State) (r : Refusal), exec i s ≠ .refused r)

/-! ### The whole machine -/

/-- R42, R135: the state after power-on reset meets the invariant, for every choice of the parameters. -/
def Obligations.PowerOnMeetsTheInvariant : Prop := ∀ p : Params, MachineInvariant (State.powerOn p)

/-- R135: every step keeps the invariants of R135 that one state shows, all but (e), together with the facts they rest on. -/
def Obligations.StepKeepsTheInvariant : Prop :=
  ∀ s t : State, MachineInvariant s → step s = .next t → MachineInvariant t

/-- R201, R64, R166: from every state of the invariant every finite sequence of command words, legal or not, runs to its end
with one response for each. -/
def Obligations.EveryRunCompletes : Prop :=
  ∀ (ws : List Half) (s : State), MachineInvariant s →
    ∃ t : State, issueAll ws s = .next t ∧ MachineInvariant t ∧ t.inputs = s.inputs ∧ t.params = s.params ∧
      t.resps.length = s.resps.length + ws.length ∧ s.resps <+: t.resps

/-- R64: one response word for each command, 0 for every command but a read command, and 0 for an illegal one. -/
def Obligations.OneResponsePerCommand : Prop :=
  ∀ (w : Half) (s t : State), issue w s = .next t →
    ∃ v : Word, t.resps = s.resps ++ [v] ∧ ((∀ i, decode w = some i → isReadCommand i = false) → v = 0#32)

/-- R175: one command raises at most one error flag, and it is one of the seven. -/
def Obligations.AtMostOneErrorPerCommand : Prop :=
  ∀ (w : Half) (s t : State), issue w s = .next t →
    t.err &&& ~~~s.err = 0#7 ∨ ∃ k, k < 7 ∧ t.err &&& ~~~s.err = 1#7 <<< k

/-- R18, R19, R25, R26, R27, R46, R50, R115, R150: the frame of every command. By opcode, each item of state changes only under
the commands whose rules write it; flags are cleared only by CLR_ERR and SOFT_RESET; ST moves only under SYNC_PUSH,
SYNC_RESET, SYNC_RELEASE out of DONE, SOFT_RESET, and WR_CTRL when it changes VARIANT; PBUF changes only at the index
DCNT and only by SYNC_PUSH in DATA. (Reading R18's column with the rules of the commands is log 11.) -/
def Obligations.EachItemChangesOnlyUnderItsCommands : Prop :=
  ∀ (i : Instr) (s t : State), exec i s = .next t →
    t.params = s.params ∧ t.inputs = s.inputs ∧
    (i.opcode ∉ [0x01#8, 0x02#8] → t.ctrl = s.ctrl) ∧
    (i.opcode ∉ [0x01#8, 0x05#8, 0x31#8, 0x35#8] → t.err = s.err) ∧
    (i.opcode ∉ [0x01#8, 0x05#8] → s.err &&& ~~~t.err = 0#7) ∧
    (i.opcode ∉ [0x01#8, 0x10#8, 0x11#8] → t.crc = s.crc) ∧
    (i.opcode ∉ [0x01#8, 0x20#8, 0x21#8] → t.xor = s.xor) ∧
    (i.opcode ∉ [0x01#8, 0x02#8, 0x30#8, 0x31#8, 0x32#8] → t.st = s.st) ∧
    (∀ d, i = .wrCtrl d → d.getLsbD 0 = s.ctrl.getLsbD 0 → t.st = s.st) ∧
    (i = .syncRelease → s.st ≠ .done → t.st = s.st) ∧
    (i.opcode ∉ [0x01#8, 0x02#8, 0x30#8, 0x31#8] →
      t.seqr = s.seqr ∧ t.lenr = s.lenr ∧ t.fcnt = s.fcnt ∧ t.dcnt = s.dcnt ∧ t.rcrc = s.rcrc ∧ t.rxor = s.rxor ∧
      t.cksOk = s.cksOk ∧ t.isEvt = s.isEvt ∧ t.gcnt = s.gcnt) ∧
    (i.opcode ∉ [0x01#8, 0x02#8, 0x30#8, 0x31#8, 0x35#8, 0x36#8] → t.rptr = s.rptr) ∧
    ∀ a, ¬ (i.opcode = 0x31#8 ∧ s.st = .data ∧ a = s.dcnt.toNat) → t.pbuf.read a = s.pbuf.read a

/-- R26, R27: the synchronizer's commands never read or write the standalone accumulators: with other values of CRC and XOR they
do the same, and those values stay. -/
def Obligations.SynchronizerIgnoresTheStandaloneUnits : Prop :=
  ∀ (i : Instr) (s t : State) (c : Half) (x : Byte), 0x30#8 ≤ i.opcode → exec i s = .next t →
    exec i { s with crc := c, xor := x } = .next { t with crc := c, xor := x }

/-- R22: FRIE and ERRIE gate `irq` and "have no other effect": with other values of CTRL's bits but the same VARIANT every
command other than the two that read them does the same. -/
def Obligations.EnablesOnlyGateTheInterrupt : Prop :=
  ∀ (i : Instr) (s t : State) (c : BitVec 8), c.getLsbD 0 = s.ctrl.getLsbD 0 → i ≠ .rdCtrl → i ≠ .rdStatus →
    exec i s = .next t →
    exec i { s with ctrl := c } = .next (if i.opcode ∈ [0x01#8, 0x02#8] then t else { t with ctrl := c })

/-- R40, R174: `irq` is high exactly while an enabled cause holds, and falls when its cause is removed. -/
def Obligations.IrqFollowsItsCauses : Prop :=
  (∀ s : State, irq s = true ↔
    (s.ctrl.getLsbD 1 = true ∧ s.st = .done) ∨ (s.ctrl.getLsbD 2 = true ∧ s.err ≠ 0#7)) ∧
  (∀ s t : State, exec .syncRelease s = .next t ∨ exec .syncReset s = .next t →
    (irq t = true ↔ s.ctrl.getLsbD 2 = true ∧ s.err ≠ 0#7)) ∧
  (∀ (d : Byte) (s t : State), d.getLsbD 0 ≠ s.ctrl.getLsbD 0 → exec (.wrCtrl d) s = .next t →
    (irq t = true ↔ d.getLsbD 2 = true ∧ s.err ≠ 0#7)) ∧
  (∀ (d : Byte) (s t : State), d.extractLsb' 0 7 = 0x7F#7 → exec (.clrErr d) s = .next t →
    (irq t = true ↔ s.ctrl.getLsbD 1 = true ∧ s.st = .done)) ∧
  (∀ (d : Byte) (s t : State), d.extractLsb' 1 2 = 0#2 → exec (.wrCtrl d) s = .next t → irq t = false) ∧
  (∀ s t : State, exec .softReset s = .next t → irq t = false)

/-- R42, U1: no command can observe what PBUF holds at reset: from the reset registers every sequence of commands ends in the
same registers with the same responses whatever PBUF held (so the model's choice of log 7 is unobservable). -/
def Obligations.PbufAtResetIsUnobservable : Prop :=
  ∀ (p : Params) (m m' : Memory) (q : List HostInput) (r : List Word) (ws : List Half), ∃ (t : State) (k : Memory),
    issueAll ws { State.powerOn p with pbuf := m, inputs := q, resps := r } = .next t ∧
    issueAll ws { State.powerOn p with pbuf := m', inputs := q, resps := r } = .next { t with pbuf := k }

/-! ### Frames through the synchronizer -/

/-- R79, R77: the round-trip law of variant A, for every sequence number and every payload within the ceiling. -/
def Obligations.RoundTripVariantA : Prop :=
  ∀ (s : State) (seq : Half) (payload : List Byte), s.ctrl.getLsbD 0 = false → s.st = .waitStart →
    payload.length ≤ s.params.maxLen.toNat →
    ∃ t : State, pushAll (frameA s.params seq payload) s = .next t ∧ t.st = .done ∧ t.seqr = seq ∧
      t.lenr = BitVec.ofNat 32 payload.length ∧ t.cksOk = true ∧ t.pbuf.readBytes 0 payload.length = payload ∧
      t.err = s.err ∧ t.isEvt = decide (seq = 0xFFFF#16) ∧
      heldFrame t = some { sequence := some seq, payload := payload, checksumValid := true,
                           isEvent := decide (seq = 0xFFFF#16) } ∧
      t.ctrl = s.ctrl ∧ t.crc = s.crc ∧ t.xor = s.xor ∧
      t.resps = s.resps ++ zeros (10 + payload.length)

/-- R79, R78: the round-trip law of variant C, for every sequence number and every payload within the ceiling and the 16-bit
length field. -/
def Obligations.RoundTripVariantC : Prop :=
  ∀ (s : State) (seq : Byte) (payload : List Byte), s.ctrl.getLsbD 0 = true → s.st = .waitStart →
    payload.length ≤ s.params.maxLen.toNat → payload.length < 2 ^ 16 →
    ∃ t : State, pushAll (frameC seq payload) s = .next t ∧ t.st = .done ∧ t.seqr = seq.setWidth 16 ∧
      t.lenr = BitVec.ofNat 32 payload.length ∧ t.cksOk = true ∧ t.pbuf.readBytes 0 payload.length = payload ∧
      t.err = s.err ∧ t.isEvt = decide (s.params.eventSeqC = some seq) ∧
      heldFrame t = some { sequence := some (seq.setWidth 16), payload := payload, checksumValid := true,
                           isEvent := decide (s.params.eventSeqC = some seq) } ∧
      t.ctrl = s.ctrl ∧ t.crc = s.crc ∧ t.xor = s.xor ∧
      t.resps = s.resps ++ zeros (6 + payload.length)

/-- R124, R132: a frame whose checksum bytes are any bytes is still delivered with its payload, CKS_OK and ERR_CKSUM saying
whether the residue was 0. -/
def Obligations.FrameWithAnyChecksumIsDelivered : Prop :=
  (∀ (s : State) (seq : Half) (payload : List Byte) (x y : Byte) (ok : Bool),
    s.ctrl.getLsbD 0 = false → s.st = .waitStart → payload.length ≤ s.params.maxLen.toNat →
    ok = decide (crc16 s.params (coveredA seq payload ++ [x, y]) = 0x0000#16) →
    ∃ t : State, pushAll (coveredA seq payload ++ [x, y]) s = .next t ∧
      heldFrame t = some { sequence := some seq, payload := payload, checksumValid := ok,
                           isEvent := decide (seq = 0xFFFF#16) } ∧
      t.err = if ok then s.err else s.err ||| 0x01#7) ∧
  (∀ (s : State) (seq : Byte) (payload : List Byte) (x : Byte) (ok : Bool),
    s.ctrl.getLsbD 0 = true → s.st = .waitStart → payload.length ≤ s.params.maxLen.toNat → payload.length < 2 ^ 16 →
    ok = decide (xor8 (coveredC seq payload ++ [x]) = 0x00#8) →
    ∃ t : State, pushAll (coveredC seq payload ++ [x]) s = .next t ∧
      heldFrame t = some { sequence := some (seq.setWidth 16), payload := payload, checksumValid := ok,
                           isEvent := decide (s.params.eventSeqC = some seq) } ∧
      t.err = if ok then s.err else s.err ||| 0x01#7)

/-- R119, R120, R126: bytes without a START are discarded and counted, up to 2^32-1, and raise ERR_SYNC exactly when the window
is not 0 and reached; nothing else changes. -/
def Obligations.GarbageIsDiscardedAndCounted : Prop :=
  ∀ (s : State) (g : List Byte), s.st = .waitStart → (∀ b ∈ g, b ≠ 0x1B#8) → ∀ n : Word,
    n.toNat = min (s.gcnt.toNat + g.length) (2 ^ 32 - 1) →
    pushAll g s = .next
      { s with
        gcnt := n
        err := if s.params.resyncWindow ≠ 0#32 ∧ g ≠ [] ∧ s.params.resyncWindow ≤ n then s.err ||| 0x08#7 else s.err
        resps := s.resps ++ zeros g.length }

/-- R119, R126, R79: the synchronizer resynchronizes past arbitrary garbage without a START: the variant A frame after it is
delivered whole. -/
def Obligations.FrameAfterGarbageIsDelivered : Prop :=
  ∀ (s : State) (g : List Byte) (seq : Half) (payload : List Byte), s.ctrl.getLsbD 0 = false → s.st = .waitStart →
    (∀ b ∈ g, b ≠ 0x1B#8) → payload.length ≤ s.params.maxLen.toNat →
    ∃ t : State, pushAll (g ++ frameA s.params seq payload) s = .next t ∧
      heldFrame t = some { sequence := some seq, payload := payload, checksumValid := true,
                           isEvent := decide (seq = 0xFFFF#16) } ∧
      t.gcnt = 0#32 ∧ (s.params.resyncWindow = 0#32 → t.err = s.err)

/-- R134, R194: while a frame is held every byte pushed is dropped; the held frame stays as it is. -/
def Obligations.HeldFrameBlocksTheByteStream : Prop :=
  ∀ (s : State) (bs : List Byte), s.st = .done →
    pushAll bs s = .next
      { s with err := if bs = [] then s.err else s.err ||| 0x10#7, resps := s.resps ++ zeros bs.length }

/-- R139, R143: LENR successive RD_PAYLOAD commands answer the held payload byte by byte, in order; one more raises ERR_RANGE. -/
def Obligations.PayloadReadsOutInOrder : Prop :=
  ∀ (s : State) (payload : List Byte), s.st = .done → s.rptr = 0#32 → s.lenr ≤ s.params.maxLen →
    s.pbuf.readBytes 0 s.lenr.toNat = payload →
    issueAll (words (List.replicate s.lenr.toNat .rdPayload)) s = .next
      { s with rptr := s.lenr, resps := s.resps ++ payload.map (·.setWidth 32) } ∧
    issueAll (words (List.replicate (s.lenr.toNat + 1) .rdPayload)) s = .next
      { s with rptr := s.lenr, err := s.err ||| 0x20#7, resps := s.resps ++ payload.map (·.setWidth 32) ++ [0#32] }

/-- R121: the total frame size is bounded: at most MAX_LEN + 10 bytes (variant A) or MAX_LEN + 6 bytes (variant C) after a START
is taken, counting it, the synchronizer is in WAIT_START or DONE. -/
def Obligations.FrameSizeIsBounded : Prop :=
  ∀ (s : State) (bs : List Byte) (bound : Nat), s.st = .waitStart →
    bound = s.params.maxLen.toNat + (if s.ctrl.getLsbD 0 = true then 6 else 10) → bs.length + 1 = bound →
    ∃ (k : Nat) (t : State), 1 ≤ k ∧ k ≤ bound ∧ pushAll ((0x1B#8 :: bs).take k) s = .next t ∧
      (t.st = .waitStart ∨ t.st = .done)

/-- R70, R71: a command's line of assembly, with or without a comment, assembles to its word, and the pseudo-instructions expand as
listed. (Blanks and letter case are log 15.) -/
def Obligations.AssemblyGivesTheWords : Prop :=
  (∀ (i : Instr) (comment : List Char),
    assembleLine (render i) = some [encode i] ∧ assembleLine (render i ++ ' ' :: ';' :: comment) = some [encode i]) ∧
  (∀ bs : List Byte, words (expand (.crcBlock bs)) = bs.map (0x11#8 ++ ·) ∧
    words (expand (.xorBlock bs)) = bs.map (0x21#8 ++ ·) ∧ words (expand (.pushBlock bs)) = bs.map (0x31#8 ++ ·)) ∧
  assembleLine "CLR_ERR_ALL".toList = some [0x057F#16] ∧ assembleLine "SEL_VARIANT_A".toList = some [0x0200#16] ∧
  assembleLine "SEL_VARIANT_C".toList = some [0x0201#16]

/-! ### R135(e) -/

/-- R135(e), R47, R131, R143: PBUF holds the payload bytes of the frame, in order, as they were pushed: whatever commands and
resets the host issues in between, every step keeps `HoldsPayload` with the bytes pushed in DATA added, and in DONE they are the
payload of the held frame, LENR of them. -/
def Obligations.HeldPayloadIsTheBytesPushed : Prop :=
  (∀ (s t : State) (h : List Byte), MachineInvariant s → HoldsPayload s h → step s = .next t →
    HoldsPayload t (payloadAfter s h)) ∧
  ∀ (s : State) (h : List Byte), MachineInvariant s → HoldsPayload s h → s.st = .done →
    h.length = s.lenr.toNat ∧
    heldFrame s = some { sequence := some s.seqr, payload := h, checksumValid := s.cksOk, isEvent := s.isEvt }
end

