-- ==== Sys2Proof/Laws/Bits.lean ====
section
/-! SUPPORT. What replacing one byte of a register does, bit by bit and as the bytes beside it (spec/00_scope.md R9,
`REG[hi:lo] <- v`). -/

namespace Sys2Proof.Machine

/-- The bits of a value with byte `k` replaced: the byte's inside, the value's outside. -/
theorem setByte_getLsbD {n : Nat} (k : Nat) (b : Byte) (v : BitVec n) (i : Nat) :
    (setByte k b v).getLsbD i = (decide (i < n) && if 8 * k ≤ i ∧ i < 8 * k + 8 then b.getLsbD (i - 8 * k) else v.getLsbD i) := by
  simp only [setByte, BitVec.getLsbD_or, BitVec.getLsbD_and, BitVec.getLsbD_not, BitVec.getLsbD_shiftLeft, BitVec.getLsbD_setWidth]
  have h255 : ∀ j, (0xFF#8).getLsbD j = decide (j < 8) := by
    intro j
    by_cases hj : j < 8
    · interval_cases j <;> rfl
    · rw [BitVec.getLsbD_of_ge _ _ (by omega)]; simp [hj]
  rw [h255]
  by_cases hn : i < n
  · by_cases h1 : i < 8 * k
    · have : ¬ (8 * k ≤ i) := by omega
      simp [hn, h1, this]
    · by_cases h2 : i < 8 * k + 8
      · have h3 : i - 8 * k < 8 := by omega
        have h4 : i - 8 * k < n := by omega
        simp [hn, h1, h2, h3, h4, show 8 * k ≤ i by omega]
      · have h3 : ¬ (i - 8 * k < 8) := by omega
        simp [hn, h1, h2, h3, BitVec.getLsbD_of_ge b (i - 8 * k) (by omega)]
  · simp [hn]

/-- Byte 0 of a 16-bit value. -/
theorem setByte_half_0 (v : Half) (b : Byte) : setByte 0 b v = v.extractLsb' 8 8 ++ b := by
  apply BitVec.eq_of_getLsbD_eq; intro i hi
  rw [setByte_getLsbD]
  refine Eq.trans ?_ BitVec.getLsbD_append.symm
  by_cases h : i < 8
  · simp [h, hi]
  · simp [h, hi, show 8 + (i - 8) = i by omega]; omega

/-- Byte 1 of a 16-bit value. -/
theorem setByte_half_1 (v : Half) (b : Byte) : setByte 1 b v = b ++ v.extractLsb' 0 8  := by
  apply BitVec.eq_of_getLsbD_eq; intro i hi
  rw [setByte_getLsbD]
  refine Eq.trans ?_ BitVec.getLsbD_append.symm
  by_cases h : i < 8
  · simp [h, hi, show ¬ (8 ≤ i) by omega]
  · simp [h, hi, show 8 ≤ i by omega]

/-- Byte 0 of a 32-bit value. -/
theorem setByte_word_0 (v : Word) (b : Byte) : setByte 0 b v = v.extractLsb' 8 24 ++ b := by
  apply BitVec.eq_of_getLsbD_eq; intro i hi
  rw [setByte_getLsbD]
  refine Eq.trans ?_ BitVec.getLsbD_append.symm
  by_cases h : i < 8
  · simp [h, hi]
  · simp [h, hi, show 8 + (i - 8) = i by omega]; omega

/-- Byte 1 of a 32-bit value. -/
theorem setByte_word_1 (v : Word) (b : Byte) : setByte 1 b v = v.extractLsb' 16 16 ++ b ++ v.extractLsb' 0 8 := by
  apply BitVec.eq_of_getLsbD_eq; intro i hi
  rw [setByte_getLsbD]
  refine Eq.trans ?_ BitVec.getLsbD_append.symm
  rw [BitVec.getLsbD_append]
  by_cases h : i < 8
  · simp [h, hi, show ¬ (8 ≤ i) by omega]
  · by_cases h2 : i < 16
    · simp [h, hi, h2, show 8 ≤ i by omega, show i - 8 < 8 by omega]
    · simp [h, hi, h2, show ¬ (i - 8 < 8) by omega, show 16 + (i - 8 - 8) = i by omega]; omega

/-- Byte 2 of a 32-bit value. -/
theorem setByte_word_2 (v : Word) (b : Byte) : setByte 2 b v = v.extractLsb' 24 8 ++ b ++ v.extractLsb' 0 16 := by
  apply BitVec.eq_of_getLsbD_eq; intro i hi
  rw [setByte_getLsbD]
  refine Eq.trans ?_ BitVec.getLsbD_append.symm
  rw [BitVec.getLsbD_append]
  by_cases h : i < 16
  · simp [h, hi, show ¬ (16 ≤ i) by omega]
  · by_cases h2 : i < 24
    · simp [h, hi, h2, show 16 ≤ i by omega, show i - 16 < 8 by omega]
    · simp [h, hi, h2, show ¬ (i - 16 < 8) by omega, show 24 + (i - 16 - 8) = i by omega]; omega

/-- Byte 3 of a 32-bit value. -/
theorem setByte_word_3 (v : Word) (b : Byte) : setByte 3 b v = b ++ v.extractLsb' 0 24 := by
  apply BitVec.eq_of_getLsbD_eq; intro i hi
  rw [setByte_getLsbD]
  refine Eq.trans ?_ BitVec.getLsbD_append.symm
  by_cases h : i < 24
  · simp [h, hi, show ¬ (24 ≤ i) by omega]
  · simp [h, hi, show 24 ≤ i by omega]

end Sys2Proof.Machine
end

