-- ==== Sys2Proof/Laws/Checksum.lean ====
section
/-! SUPPORT. How the checksum functions take a byte string apart. -/

namespace Sys2Proof.Machine

@[simp] theorem crcFold_nil (poly c : Half) : crcFold poly c [] = c := rfl

@[simp] theorem crcFold_cons (poly c : Half) (b : Byte) (m : List Byte) :
    crcFold poly c (b :: m) = crcFold poly (crc16Step poly c b) m := rfl

/-- The CRC of a string is the CRC of its second part from that of its first (spec/40_crc16.md R93). -/
@[simp] theorem crcFold_append (poly c : Half) (m m' : List Byte) :
    crcFold poly c (m ++ m') = crcFold poly (crcFold poly c m) m' := List.foldl_append ..

/-- "`crc16([])` = CRC_SEED" (R93). -/
@[simp] theorem crc16_nil (p : Params) : crc16 p [] = p.crcSeed := rfl

/-- One more byte of a string is one more step (R93). -/
theorem crc16_append_one (p : Params) (m : List Byte) (b : Byte) :
    crc16 p (m ++ [b]) = crc16Step p.crcPolyR (crc16 p m) b := by simp [crc16]

@[simp] theorem xor8_nil : xor8 [] = 0#8 := rfl

/-- One more byte of a string is one more XOR (spec/41_xor.md R107). -/
theorem xor8_append_one (m : List Byte) (b : Byte) : xor8 (m ++ [b]) = xor8 m ^^^ b := by simp [xor8]

@[simp] theorem crcShifts_zero (poly r : Half) : crcShifts poly 0 r = r := rfl

@[simp] theorem crcShifts_succ (poly r : Half) (n : Nat) : crcShifts poly (n + 1) r = crcShifts poly n (crcShift poly r) :=
  rfl

end Sys2Proof.Machine
end

