-- ==== Sys2Proof/Laws/Memory.lean ====
section
/-! SUPPORT. The laws of PBUF: a read after a write, and that every operation keeps the canonical form. -/

namespace Sys2Proof.Machine

@[simp] theorem Memory.read_nil (a : Nat) : Memory.read [] a = Memory.unlisted := rfl

@[simp] theorem Memory.read_cons (k : Nat) (v : Byte) (m : Memory) (a : Nat) :
    Memory.read ((k, v) :: m) a = if k = a then v else m.read a := rfl

/-- Inserting an entry changes what its index reads as, and no other. -/
theorem Memory.read_insert (m : Memory) (a b : Nat) (v : Byte) :
    (m.insert a v).read b = if a = b then v else m.read b := by
  induction m with
  | nil => rfl
  | cons c m ih =>
    obtain ⟨k, u⟩ := c
    simp only [Memory.insert]
    split
    · rfl
    · split
      · rename_i hk; subst hk; simp only [Memory.read_cons]; split <;> rfl
      · simp only [Memory.read_cons, ih]; split
        · rw [if_neg (by omega)]
        · rfl

/-- Dropping the entries of an index changes what it reads as, and no other. -/
theorem Memory.read_filter (m : Memory) (a b : Nat) :
    Memory.read (m.filter fun c => c.1 ≠ a) b = if a = b then Memory.unlisted else m.read b := by
  induction m with
  | nil => simp
  | cons c m ih =>
    obtain ⟨k, u⟩ := c
    rw [List.filter_cons]
    by_cases hk : k = a
    · subst hk
      rw [if_neg (by simp), ih]
      split
      · rfl
      · rename_i h; simp [h]
    · rw [if_pos (by simpa using hk), Memory.read_cons, Memory.read_cons, ih]
      split
      · rw [if_neg (by omega)]
      · rfl

/-- What every index reads as after a write. -/
theorem Memory.read_write (m : Memory) (a b : Nat) (v : Byte) : (m.write a v).read b = if a = b then v else m.read b := by
  unfold Memory.write
  split
  · rename_i h; subst h; exact Memory.read_filter m a b
  · exact Memory.read_insert m a b v

/-- A read after a write to the same index gives the byte written. -/
@[simp] theorem Memory.read_write_same (m : Memory) (a : Nat) (v : Byte) : (m.write a v).read a = v := by
  simp [Memory.read_write]

/-- A write leaves every other index alone. -/
theorem Memory.read_write_other (m : Memory) {a b : Nat} (v : Byte) (h : b ≠ a) : (m.write a v).read b = m.read b := by
  simp [Memory.read_write, h.symm]

/-- Whatever is listed after an insertion was listed before or is the entry inserted. -/
theorem Memory.mem_insert {m : Memory} {a : Nat} {v : Byte} {c : Host.Cell} (h : c ∈ m.insert a v) :
    c = (a, v) ∨ c ∈ m := by
  induction m with
  | nil => simpa [Memory.insert] using h
  | cons d m ih =>
    obtain ⟨k, u⟩ := d
    simp only [Memory.insert] at h
    split at h
    · simpa using h
    · split at h
      · rcases List.mem_cons.1 h with h | h
        · exact .inl h
        · exact .inr (List.mem_cons_of_mem _ h)
      · rcases List.mem_cons.1 h with h | h
        · exact .inr (h ▸ List.mem_cons_self ..)
        · exact (ih h).imp id (List.mem_cons_of_mem _)

/-- Whatever is listed after a write was listed before, or is the byte written and not what an unlisted index holds. -/
theorem Memory.mem_write {m : Memory} {a : Nat} {v : Byte} {c : Host.Cell} (h : c ∈ m.write a v) :
    (c = (a, v) ∧ v ≠ Memory.unlisted) ∨ c ∈ m := by
  unfold Memory.write at h
  split at h
  · exact .inr (List.mem_filter.1 h).1
  · rename_i hv; exact (Memory.mem_insert h).imp (fun h => ⟨h, hv⟩) id

/-- An insertion keeps the indices strictly rising. -/
theorem Memory.insert_rising {m : Memory} (a : Nat) (v : Byte) (h : m.Pairwise fun x y => x.1 < y.1) :
    (m.insert a v).Pairwise fun x y => x.1 < y.1 := by
  induction m with
  | nil => simp [Memory.insert]
  | cons c m ih =>
    obtain ⟨k, u⟩ := c
    have hk := List.pairwise_cons.1 h
    simp only [Memory.insert]
    split
    · rename_i hak
      refine List.pairwise_cons.2 ⟨fun d hd => ?_, h⟩
      rcases List.mem_cons.1 hd with rfl | hd
      · exact hak
      · exact Nat.lt_trans hak (hk.1 d hd)
    · split
      · rename_i heq; subst heq
        exact List.pairwise_cons.2 ⟨fun d hd => hk.1 d hd, hk.2⟩
      · refine List.pairwise_cons.2 ⟨fun d hd => ?_, ih hk.2⟩
        rcases Memory.mem_insert hd with rfl | hd
        · show k < a; omega
        · exact hk.1 d hd

/-- A write keeps the canonical form. -/
theorem Memory.write_wf {m : Memory} (a : Nat) (v : Byte) (h : m.wf) : (m.write a v).wf := by
  refine ⟨?_, fun c hc => ?_⟩
  · unfold Memory.write
    split
    · exact h.1.filter _
    · exact Memory.insert_rising a v h.1
  · rcases Memory.mem_write hc with ⟨rfl, hv⟩ | hc
    · exact hv
    · exact h.2 c hc

/-- A write at an index that exists keeps every listed index inside PBUF. -/
theorem Memory.write_within {m : Memory} {a n : Nat} (v : Byte) (h : m.within n) (ha : a < n) :
    (m.write a v).within n := by
  intro c hc
  rcases Memory.mem_write hc with ⟨rfl, -⟩ | hc
  · exact ha
  · exact h c hc

/-- An index below every listed one reads as an unlisted one. -/
theorem Memory.read_below {m : Memory} {a : Nat} (h : ∀ c ∈ m, a < c.1) : m.read a = Memory.unlisted := by
  induction m with
  | nil => rfl
  | cons c m ih =>
    obtain ⟨k, u⟩ := c
    have hk : a < k := h (k, u) (List.mem_cons_self ..)
    rw [Memory.read_cons, if_neg (by omega)]
    exact ih fun c hc => h c (List.mem_cons_of_mem _ hc)

/-- The form is canonical: memories in it that read alike at every index are equal. -/
theorem Memory.eq_of_read_eq {m m' : Memory} (h : m.wf) (h' : m'.wf) (e : ∀ a, m.read a = m'.read a) : m = m' := by
  induction m generalizing m' with
  | nil =>
    cases m' with
    | nil => rfl
    | cons c m' =>
      obtain ⟨k, u⟩ := c
      exact absurd (by simpa using (e k).symm) (h'.2 (k, u) (List.mem_cons_self ..))
  | cons c m ih =>
    obtain ⟨k, u⟩ := c
    have hp := List.pairwise_cons.1 h.1
    cases m' with
    | nil => exact absurd (by simpa using e k) (h.2 (k, u) (List.mem_cons_self ..))
    | cons c' m' =>
      obtain ⟨k', u'⟩ := c'
      have hp' := List.pairwise_cons.1 h'.1
      have hu : u ≠ Memory.unlisted := h.2 (k, u) (List.mem_cons_self ..)
      have hu' : u' ≠ Memory.unlisted := h'.2 (k', u') (List.mem_cons_self ..)
      obtain rfl : k = k' := by
        rcases Nat.lt_trichotomy k k' with hlt | heq | hgt
        · refine absurd ?_ hu
          have hb : Memory.read m' k = Memory.unlisted := Memory.read_below fun c hc => Nat.lt_trans hlt (hp'.1 c hc)
          simpa [show k' ≠ k by omega, hb] using e k
        · exact heq
        · refine absurd ?_ hu'
          have hb : Memory.read m k' = Memory.unlisted := Memory.read_below fun c hc => Nat.lt_trans hgt (hp.1 c hc)
          simpa [show k ≠ k' by omega, hb] using (e k').symm
      obtain rfl : u = u' := by simpa using e k
      congr 1
      refine ih ⟨hp.2, fun c hc => h.2 c (List.mem_cons_of_mem _ hc)⟩
        ⟨hp'.2, fun c hc => h'.2 c (List.mem_cons_of_mem _ hc)⟩ fun a => ?_
      by_cases ha : k = a
      · subst ha; rw [Memory.read_below hp.1, Memory.read_below hp'.1]
      · simpa [ha] using e a

/-- The reset PBUF is in canonical form. -/
theorem Memory.powerOn_wf (p : Params) : (State.powerOn p).pbuf.wf := ⟨List.Pairwise.nil, by simp [State.powerOn]⟩

@[simp] theorem Memory.readBytes_zero (m : Memory) (a : Nat) : m.readBytes a 0 = [] := rfl

/-- A block extends by the byte after it. -/
theorem Memory.readBytes_succ (m : Memory) (a n : Nat) : m.readBytes a (n + 1) = m.readBytes a n ++ [m.read (a + n)] := by
  simp [Memory.readBytes, List.range_succ]

/-- A block has the length asked for. -/
@[simp] theorem Memory.readBytes_length (m : Memory) (a n : Nat) : (m.readBytes a n).length = n := by simp [Memory.readBytes]

/-- A block reads the same in two memories that agree on its indices. -/
theorem Memory.readBytes_congr {m m' : Memory} {n a : Nat} (h : ∀ i, a ≤ i → i < a + n → m.read i = m'.read i) :
    m.readBytes a n = m'.readBytes a n :=
  List.map_congr_left fun i hi => h (a + i) (by omega) (by have := List.mem_range.1 hi; omega)

/-- Writing the byte after a block extends the block by it. -/
theorem Memory.readBytes_write_next (m : Memory) (a n : Nat) (v : Byte) :
    (m.write (a + n) v).readBytes a (n + 1) = m.readBytes a n ++ [v] := by
  rw [Memory.readBytes_succ, Memory.read_write_same]
  congr 1
  exact Memory.readBytes_congr fun i _ hi => Memory.read_write_other m v (by omega)

end Sys2Proof.Machine
end

