-- ==== Sys2Proof/Laws/State.lean ====
section
/-! SUPPORT. What each named update of the state does to each field, one lemma per field, true by rfl. -/

namespace Sys2Proof.Machine

/-! ### respond -/

@[simp] theorem respond_params (v : Word) (s : State) : (respond v s).params = s.params := rfl
@[simp] theorem respond_ctrl (v : Word) (s : State) : (respond v s).ctrl = s.ctrl := rfl
@[simp] theorem respond_err (v : Word) (s : State) : (respond v s).err = s.err := rfl
@[simp] theorem respond_crc (v : Word) (s : State) : (respond v s).crc = s.crc := rfl
@[simp] theorem respond_xor (v : Word) (s : State) : (respond v s).xor = s.xor := rfl
@[simp] theorem respond_st (v : Word) (s : State) : (respond v s).st = s.st := rfl
@[simp] theorem respond_seqr (v : Word) (s : State) : (respond v s).seqr = s.seqr := rfl
@[simp] theorem respond_lenr (v : Word) (s : State) : (respond v s).lenr = s.lenr := rfl
@[simp] theorem respond_fcnt (v : Word) (s : State) : (respond v s).fcnt = s.fcnt := rfl
@[simp] theorem respond_dcnt (v : Word) (s : State) : (respond v s).dcnt = s.dcnt := rfl
@[simp] theorem respond_rcrc (v : Word) (s : State) : (respond v s).rcrc = s.rcrc := rfl
@[simp] theorem respond_rxor (v : Word) (s : State) : (respond v s).rxor = s.rxor := rfl
@[simp] theorem respond_cksOk (v : Word) (s : State) : (respond v s).cksOk = s.cksOk := rfl
@[simp] theorem respond_isEvt (v : Word) (s : State) : (respond v s).isEvt = s.isEvt := rfl
@[simp] theorem respond_rptr (v : Word) (s : State) : (respond v s).rptr = s.rptr := rfl
@[simp] theorem respond_gcnt (v : Word) (s : State) : (respond v s).gcnt = s.gcnt := rfl
@[simp] theorem respond_pbuf (v : Word) (s : State) : (respond v s).pbuf = s.pbuf := rfl
@[simp] theorem respond_inputs (v : Word) (s : State) : (respond v s).inputs = s.inputs := rfl
@[simp] theorem respond_resps (v : Word) (s : State) : (respond v s).resps = s.resps ++ [v] := rfl
@[simp] theorem variantC_respond (v : Word) (s : State) : variantC (respond v s) = variantC s := rfl

/-! ### raise -/

@[simp] theorem raise_params (e : ErrFlag) (s : State) : (raise e s).params = s.params := rfl
@[simp] theorem raise_ctrl (e : ErrFlag) (s : State) : (raise e s).ctrl = s.ctrl := rfl
@[simp] theorem raise_err (e : ErrFlag) (s : State) : (raise e s).err = s.err ||| errBit e := rfl
@[simp] theorem raise_crc (e : ErrFlag) (s : State) : (raise e s).crc = s.crc := rfl
@[simp] theorem raise_xor (e : ErrFlag) (s : State) : (raise e s).xor = s.xor := rfl
@[simp] theorem raise_st (e : ErrFlag) (s : State) : (raise e s).st = s.st := rfl
@[simp] theorem raise_seqr (e : ErrFlag) (s : State) : (raise e s).seqr = s.seqr := rfl
@[simp] theorem raise_lenr (e : ErrFlag) (s : State) : (raise e s).lenr = s.lenr := rfl
@[simp] theorem raise_fcnt (e : ErrFlag) (s : State) : (raise e s).fcnt = s.fcnt := rfl
@[simp] theorem raise_dcnt (e : ErrFlag) (s : State) : (raise e s).dcnt = s.dcnt := rfl
@[simp] theorem raise_rcrc (e : ErrFlag) (s : State) : (raise e s).rcrc = s.rcrc := rfl
@[simp] theorem raise_rxor (e : ErrFlag) (s : State) : (raise e s).rxor = s.rxor := rfl
@[simp] theorem raise_cksOk (e : ErrFlag) (s : State) : (raise e s).cksOk = s.cksOk := rfl
@[simp] theorem raise_isEvt (e : ErrFlag) (s : State) : (raise e s).isEvt = s.isEvt := rfl
@[simp] theorem raise_rptr (e : ErrFlag) (s : State) : (raise e s).rptr = s.rptr := rfl
@[simp] theorem raise_gcnt (e : ErrFlag) (s : State) : (raise e s).gcnt = s.gcnt := rfl
@[simp] theorem raise_pbuf (e : ErrFlag) (s : State) : (raise e s).pbuf = s.pbuf := rfl
@[simp] theorem raise_inputs (e : ErrFlag) (s : State) : (raise e s).inputs = s.inputs := rfl
@[simp] theorem raise_resps (e : ErrFlag) (s : State) : (raise e s).resps = s.resps := rfl
@[simp] theorem variantC_raise (e : ErrFlag) (s : State) : variantC (raise e s) = variantC s := rfl

/-! ### clearErrors -/

@[simp] theorem clearErrors_params (m : BitVec 7) (s : State) : (clearErrors m s).params = s.params := rfl
@[simp] theorem clearErrors_ctrl (m : BitVec 7) (s : State) : (clearErrors m s).ctrl = s.ctrl := rfl
@[simp] theorem clearErrors_err (m : BitVec 7) (s : State) : (clearErrors m s).err = s.err &&& ~~~m := rfl
@[simp] theorem clearErrors_crc (m : BitVec 7) (s : State) : (clearErrors m s).crc = s.crc := rfl
@[simp] theorem clearErrors_xor (m : BitVec 7) (s : State) : (clearErrors m s).xor = s.xor := rfl
@[simp] theorem clearErrors_st (m : BitVec 7) (s : State) : (clearErrors m s).st = s.st := rfl
@[simp] theorem clearErrors_seqr (m : BitVec 7) (s : State) : (clearErrors m s).seqr = s.seqr := rfl
@[simp] theorem clearErrors_lenr (m : BitVec 7) (s : State) : (clearErrors m s).lenr = s.lenr := rfl
@[simp] theorem clearErrors_fcnt (m : BitVec 7) (s : State) : (clearErrors m s).fcnt = s.fcnt := rfl
@[simp] theorem clearErrors_dcnt (m : BitVec 7) (s : State) : (clearErrors m s).dcnt = s.dcnt := rfl
@[simp] theorem clearErrors_rcrc (m : BitVec 7) (s : State) : (clearErrors m s).rcrc = s.rcrc := rfl
@[simp] theorem clearErrors_rxor (m : BitVec 7) (s : State) : (clearErrors m s).rxor = s.rxor := rfl
@[simp] theorem clearErrors_cksOk (m : BitVec 7) (s : State) : (clearErrors m s).cksOk = s.cksOk := rfl
@[simp] theorem clearErrors_isEvt (m : BitVec 7) (s : State) : (clearErrors m s).isEvt = s.isEvt := rfl
@[simp] theorem clearErrors_rptr (m : BitVec 7) (s : State) : (clearErrors m s).rptr = s.rptr := rfl
@[simp] theorem clearErrors_gcnt (m : BitVec 7) (s : State) : (clearErrors m s).gcnt = s.gcnt := rfl
@[simp] theorem clearErrors_pbuf (m : BitVec 7) (s : State) : (clearErrors m s).pbuf = s.pbuf := rfl
@[simp] theorem clearErrors_inputs (m : BitVec 7) (s : State) : (clearErrors m s).inputs = s.inputs := rfl
@[simp] theorem clearErrors_resps (m : BitVec 7) (s : State) : (clearErrors m s).resps = s.resps := rfl
@[simp] theorem variantC_clearErrors (m : BitVec 7) (s : State) : variantC (clearErrors m s) = variantC s := rfl

/-! ### acc -/

@[simp] theorem acc_params (b : Byte) (s : State) : (acc b s).params = s.params := rfl
@[simp] theorem acc_ctrl (b : Byte) (s : State) : (acc b s).ctrl = s.ctrl := rfl
@[simp] theorem acc_err (b : Byte) (s : State) : (acc b s).err = s.err := rfl
@[simp] theorem acc_crc (b : Byte) (s : State) : (acc b s).crc = s.crc := rfl
@[simp] theorem acc_xor (b : Byte) (s : State) : (acc b s).xor = s.xor := rfl
@[simp] theorem acc_st (b : Byte) (s : State) : (acc b s).st = s.st := rfl
@[simp] theorem acc_seqr (b : Byte) (s : State) : (acc b s).seqr = s.seqr := rfl
@[simp] theorem acc_lenr (b : Byte) (s : State) : (acc b s).lenr = s.lenr := rfl
@[simp] theorem acc_fcnt (b : Byte) (s : State) : (acc b s).fcnt = s.fcnt := rfl
@[simp] theorem acc_dcnt (b : Byte) (s : State) : (acc b s).dcnt = s.dcnt := rfl
@[simp] theorem acc_rcrc (b : Byte) (s : State) : (acc b s).rcrc = crc16Step s.params.crcPolyR s.rcrc b := rfl
@[simp] theorem acc_rxor (b : Byte) (s : State) : (acc b s).rxor = s.rxor ^^^ b := rfl
@[simp] theorem acc_cksOk (b : Byte) (s : State) : (acc b s).cksOk = s.cksOk := rfl
@[simp] theorem acc_isEvt (b : Byte) (s : State) : (acc b s).isEvt = s.isEvt := rfl
@[simp] theorem acc_rptr (b : Byte) (s : State) : (acc b s).rptr = s.rptr := rfl
@[simp] theorem acc_gcnt (b : Byte) (s : State) : (acc b s).gcnt = s.gcnt := rfl
@[simp] theorem acc_pbuf (b : Byte) (s : State) : (acc b s).pbuf = s.pbuf := rfl
@[simp] theorem acc_inputs (b : Byte) (s : State) : (acc b s).inputs = s.inputs := rfl
@[simp] theorem acc_resps (b : Byte) (s : State) : (acc b s).resps = s.resps := rfl
@[simp] theorem variantC_acc (b : Byte) (s : State) : variantC (acc b s) = variantC s := rfl

/-! ### startFrame -/

@[simp] theorem startFrame_params (b : Byte) (s : State) : (startFrame b s).params = s.params := rfl
@[simp] theorem startFrame_ctrl (b : Byte) (s : State) : (startFrame b s).ctrl = s.ctrl := rfl
@[simp] theorem startFrame_err (b : Byte) (s : State) : (startFrame b s).err = s.err := rfl
@[simp] theorem startFrame_crc (b : Byte) (s : State) : (startFrame b s).crc = s.crc := rfl
@[simp] theorem startFrame_xor (b : Byte) (s : State) : (startFrame b s).xor = s.xor := rfl
@[simp] theorem startFrame_st (b : Byte) (s : State) : (startFrame b s).st = .seq := rfl
@[simp] theorem startFrame_seqr (b : Byte) (s : State) : (startFrame b s).seqr = 0#16 := rfl
@[simp] theorem startFrame_lenr (b : Byte) (s : State) : (startFrame b s).lenr = 0#32 := rfl
@[simp] theorem startFrame_fcnt (b : Byte) (s : State) : (startFrame b s).fcnt = 0#2 := rfl
@[simp] theorem startFrame_dcnt (b : Byte) (s : State) : (startFrame b s).dcnt = 0#32 := rfl
@[simp] theorem startFrame_rcrc (b : Byte) (s : State) : (startFrame b s).rcrc = crc16Step s.params.crcPolyR s.params.crcSeed b := rfl
@[simp] theorem startFrame_rxor (b : Byte) (s : State) : (startFrame b s).rxor = 0#8 ^^^ b := rfl
@[simp] theorem startFrame_cksOk (b : Byte) (s : State) : (startFrame b s).cksOk = false := rfl
@[simp] theorem startFrame_isEvt (b : Byte) (s : State) : (startFrame b s).isEvt = false := rfl
@[simp] theorem startFrame_rptr (b : Byte) (s : State) : (startFrame b s).rptr = s.rptr := rfl
@[simp] theorem startFrame_gcnt (b : Byte) (s : State) : (startFrame b s).gcnt = 0#32 := rfl
@[simp] theorem startFrame_pbuf (b : Byte) (s : State) : (startFrame b s).pbuf = s.pbuf := rfl
@[simp] theorem startFrame_inputs (b : Byte) (s : State) : (startFrame b s).inputs = s.inputs := rfl
@[simp] theorem startFrame_resps (b : Byte) (s : State) : (startFrame b s).resps = s.resps := rfl
@[simp] theorem variantC_startFrame (b : Byte) (s : State) : variantC (startFrame b s) = variantC s := rfl

/-! ### enterDone -/

@[simp] theorem enterDone_params (s : State) : (enterDone s).params = s.params := rfl
@[simp] theorem enterDone_ctrl (s : State) : (enterDone s).ctrl = s.ctrl := rfl
@[simp] theorem enterDone_err (s : State) : (enterDone s).err = s.err := rfl
@[simp] theorem enterDone_crc (s : State) : (enterDone s).crc = s.crc := rfl
@[simp] theorem enterDone_xor (s : State) : (enterDone s).xor = s.xor := rfl
@[simp] theorem enterDone_st (s : State) : (enterDone s).st = .done := rfl
@[simp] theorem enterDone_seqr (s : State) : (enterDone s).seqr = s.seqr := rfl
@[simp] theorem enterDone_lenr (s : State) : (enterDone s).lenr = s.lenr := rfl
@[simp] theorem enterDone_fcnt (s : State) : (enterDone s).fcnt = s.fcnt := rfl
@[simp] theorem enterDone_dcnt (s : State) : (enterDone s).dcnt = s.dcnt := rfl
@[simp] theorem enterDone_rcrc (s : State) : (enterDone s).rcrc = s.rcrc := rfl
@[simp] theorem enterDone_rxor (s : State) : (enterDone s).rxor = s.rxor := rfl
@[simp] theorem enterDone_cksOk (s : State) : (enterDone s).cksOk = s.cksOk := rfl
@[simp] theorem enterDone_isEvt (s : State) : (enterDone s).isEvt = isEvent s.params (variantC s) s.seqr := rfl
@[simp] theorem enterDone_rptr (s : State) : (enterDone s).rptr = 0#32 := rfl
@[simp] theorem enterDone_gcnt (s : State) : (enterDone s).gcnt = s.gcnt := rfl
@[simp] theorem enterDone_pbuf (s : State) : (enterDone s).pbuf = s.pbuf := rfl
@[simp] theorem enterDone_inputs (s : State) : (enterDone s).inputs = s.inputs := rfl
@[simp] theorem enterDone_resps (s : State) : (enterDone s).resps = s.resps := rfl
@[simp] theorem variantC_enterDone (s : State) : variantC (enterDone s) = variantC s := rfl

/-! ### syncClear -/

@[simp] theorem syncClear_params (s : State) : (syncClear s).params = s.params := rfl
@[simp] theorem syncClear_ctrl (s : State) : (syncClear s).ctrl = s.ctrl := rfl
@[simp] theorem syncClear_err (s : State) : (syncClear s).err = s.err := rfl
@[simp] theorem syncClear_crc (s : State) : (syncClear s).crc = s.crc := rfl
@[simp] theorem syncClear_xor (s : State) : (syncClear s).xor = s.xor := rfl
@[simp] theorem syncClear_st (s : State) : (syncClear s).st = .waitStart := rfl
@[simp] theorem syncClear_seqr (s : State) : (syncClear s).seqr = 0#16 := rfl
@[simp] theorem syncClear_lenr (s : State) : (syncClear s).lenr = 0#32 := rfl
@[simp] theorem syncClear_fcnt (s : State) : (syncClear s).fcnt = 0#2 := rfl
@[simp] theorem syncClear_dcnt (s : State) : (syncClear s).dcnt = 0#32 := rfl
@[simp] theorem syncClear_rcrc (s : State) : (syncClear s).rcrc = s.params.crcSeed := rfl
@[simp] theorem syncClear_rxor (s : State) : (syncClear s).rxor = 0#8 := rfl
@[simp] theorem syncClear_cksOk (s : State) : (syncClear s).cksOk = false := rfl
@[simp] theorem syncClear_isEvt (s : State) : (syncClear s).isEvt = false := rfl
@[simp] theorem syncClear_rptr (s : State) : (syncClear s).rptr = 0#32 := rfl
@[simp] theorem syncClear_gcnt (s : State) : (syncClear s).gcnt = 0#32 := rfl
@[simp] theorem syncClear_pbuf (s : State) : (syncClear s).pbuf = s.pbuf := rfl
@[simp] theorem syncClear_inputs (s : State) : (syncClear s).inputs = s.inputs := rfl
@[simp] theorem syncClear_resps (s : State) : (syncClear s).resps = s.resps := rfl
@[simp] theorem variantC_syncClear (s : State) : variantC (syncClear s) = variantC s := rfl

/-! ### resetRegisters -/

@[simp] theorem resetRegisters_params (s : State) : (resetRegisters s).params = s.params := rfl
@[simp] theorem resetRegisters_ctrl (s : State) : (resetRegisters s).ctrl = 0#8 := rfl
@[simp] theorem resetRegisters_err (s : State) : (resetRegisters s).err = 0#7 := rfl
@[simp] theorem resetRegisters_crc (s : State) : (resetRegisters s).crc = s.params.crcSeed := rfl
@[simp] theorem resetRegisters_xor (s : State) : (resetRegisters s).xor = 0#8 := rfl
@[simp] theorem resetRegisters_st (s : State) : (resetRegisters s).st = .waitStart := rfl
@[simp] theorem resetRegisters_seqr (s : State) : (resetRegisters s).seqr = 0#16 := rfl
@[simp] theorem resetRegisters_lenr (s : State) : (resetRegisters s).lenr = 0#32 := rfl
@[simp] theorem resetRegisters_fcnt (s : State) : (resetRegisters s).fcnt = 0#2 := rfl
@[simp] theorem resetRegisters_dcnt (s : State) : (resetRegisters s).dcnt = 0#32 := rfl
@[simp] theorem resetRegisters_rcrc (s : State) : (resetRegisters s).rcrc = s.params.crcSeed := rfl
@[simp] theorem resetRegisters_rxor (s : State) : (resetRegisters s).rxor = 0#8 := rfl
@[simp] theorem resetRegisters_cksOk (s : State) : (resetRegisters s).cksOk = false := rfl
@[simp] theorem resetRegisters_isEvt (s : State) : (resetRegisters s).isEvt = false := rfl
@[simp] theorem resetRegisters_rptr (s : State) : (resetRegisters s).rptr = 0#32 := rfl
@[simp] theorem resetRegisters_gcnt (s : State) : (resetRegisters s).gcnt = 0#32 := rfl
@[simp] theorem resetRegisters_pbuf (s : State) : (resetRegisters s).pbuf = s.pbuf := rfl
@[simp] theorem resetRegisters_inputs (s : State) : (resetRegisters s).inputs = s.inputs := rfl
@[simp] theorem resetRegisters_resps (s : State) : (resetRegisters s).resps = s.resps := rfl

end Sys2Proof.Machine
end

