-- ==== Sys2Proof/Laws/Ops.lean ====
section
/-! SUPPORT. One lemma for each shared operation that says once everything it can do; proofs cite these and do not unfold
the operation again. -/

namespace Sys2Proof.Machine

/-- `memRead` gives the byte of the index exactly when the index exists. -/
theorem memRead_ok {i : Word} {s : State} {b : Byte} :
    memRead i s = .ok b ↔ i < s.params.maxLen ∧ s.pbuf.read i.toNat = b := by
  unfold memRead
  split
  · rename_i h; simp [h]
  · rename_i h; simp [h]

/-- Where `memRead` stops, and how. -/
theorem memRead_error {i : Word} {s : State} {f : Fault} :
    memRead i s = .error f ↔ ¬ i < s.params.maxLen ∧ f = .pbufOutOfRange := by
  unfold memRead
  split
  · rename_i h; simp [h]
  · rename_i h; simp [h, eq_comm]

/-- `memWrite` gives a next state exactly when the index exists, and changes that byte of PBUF only. -/
theorem memWrite_ok {i : Word} {v : Byte} {s t : State} :
    memWrite i v s = .ok t ↔ i < s.params.maxLen ∧ t = { s with pbuf := s.pbuf.write i.toNat v } := by
  unfold memWrite
  split
  · rename_i h; simp [h, eq_comm]
  · rename_i h; simp [h]

/-- Where `memWrite` stops, and how. -/
theorem memWrite_error {i : Word} {v : Byte} {s : State} {f : Fault} :
    memWrite i v s = .error f ↔ ¬ i < s.params.maxLen ∧ f = .pbufOutOfRange := by
  unfold memWrite
  split
  · rename_i h; simp [h]
  · rename_i h; simp [h, eq_comm]

/-- Taking the host's next input changes only what waits at the port. -/
theorem takeInput_some {s t : State} {x : HostInput} :
    takeInput s = some (x, t) ↔ ∃ rest, s.inputs = x :: rest ∧ t = { s with inputs := rest } := by
  unfold takeInput
  cases h : s.inputs with
  | nil => simp
  | cons y rest =>
    simp only [Option.some.injEq, Prod.mk.injEq, List.cons.injEq]
    constructor
    · rintro ⟨rfl, rfl⟩; exact ⟨rest, ⟨rfl, rfl⟩, rfl⟩
    · rintro ⟨_, ⟨rfl, rfl⟩, rfl⟩; exact ⟨rfl, rfl⟩

/-- Nothing waits at the port. -/
theorem takeInput_none {s : State} : takeInput s = none ↔ s.inputs = [] := by
  unfold takeInput
  cases h : s.inputs <;> simp

/-- `sat32Inc` on numbers: one more, up to 2^32-1 (spec/00_scope.md R8). -/
theorem sat32Inc_toNat (c : Word) : (sat32Inc c).toNat = min (c.toNat + 1) (2 ^ 32 - 1) := by
  unfold sat32Inc
  split
  · rename_i h; subst h; rfl
  · rename_i h
    have : c.toNat ≠ 4294967295 := fun hc => h (BitVec.eq_of_toNat_eq (by simpa using hc))
    have hlt := c.isLt
    simp only [BitVec.toNat_add, BitVec.toNat_ofNat]
    omega

/-- A frame is held only in DONE, and is then the four registers and the first LENR bytes of PBUF (R143). -/
theorem heldFrame_eq_some {s : State} {f : Frame} :
    heldFrame s = some f ↔
      s.st = .done ∧ s.pbuf.readBytes 0 s.lenr.toNat = f.payload ∧
        f.sequence = some s.seqr ∧ f.checksumValid = s.cksOk ∧ f.isEvent = s.isEvt := by
  obtain ⟨q, pl, cv, ev⟩ := f
  unfold heldFrame
  split
  · rename_i h
    simp only [h, true_and, Option.some.injEq, Frame.mk.injEq]
    constructor <;> (rintro ⟨rfl, rfl, rfl, rfl⟩; exact ⟨rfl, rfl, rfl, rfl⟩)
  · rename_i h; simp [h]

end Sys2Proof.Machine
end

