-- ==== Sys2Proof/Laws/PerInstr.lean ====
section
/-! SUPPORT. The family Encoding: the word an instruction encodes to has its opcode in OPC and its operand in D
(spec/30_encoding.md R63), and D is 0x00 "when the command takes no D" (R70). -/

namespace Sys2Proof.Laws

/-- The word `{OPC, D}` of two bytes has them as its fields (R63). -/
theorem fields_append (opc d : Byte) : opcField (opc ++ d) = opc ∧ dField (opc ++ d) = d := by
  constructor
  · ext j hj
    have h := BitVec.getLsbD_append (x := opc) (y := d) (i := 8 + j)
    simp only [opcField, BitVec.getElem_extractLsb']
    exact h.trans (by simp [BitVec.getLsbD_eq_getElem hj])
  · ext j hj
    have h := BitVec.getLsbD_append (x := opc) (y := d) (i := 0 + j)
    simp only [dField, BitVec.getElem_extractLsb']
    exact h.trans (by simp [hj])

namespace Encoding

/-- What the family says of an instruction. -/
def Statement (i : Instr) : Prop :=
  opcField (encode i) = i.opcode ∧ dField (encode i) = i.operand ∧ (i.takesD = false → i.operand = 0x00#8)

theorem nop : Statement .nop := ⟨(fields_append _ _).1, (fields_append _ _).2, fun _ => rfl⟩

theorem softReset : Statement .softReset := ⟨(fields_append _ _).1, (fields_append _ _).2, fun _ => rfl⟩

theorem wrCtrl (d : Byte) : Statement (.wrCtrl d) := ⟨(fields_append _ _).1, (fields_append _ _).2, nofun⟩

theorem rdCtrl : Statement .rdCtrl := ⟨(fields_append _ _).1, (fields_append _ _).2, fun _ => rfl⟩

theorem rdStatus : Statement .rdStatus := ⟨(fields_append _ _).1, (fields_append _ _).2, fun _ => rfl⟩

theorem clrErr (d : Byte) : Statement (.clrErr d) := ⟨(fields_append _ _).1, (fields_append _ _).2, nofun⟩

theorem crcInit : Statement .crcInit := ⟨(fields_append _ _).1, (fields_append _ _).2, fun _ => rfl⟩

theorem crcByte (d : Byte) : Statement (.crcByte d) := ⟨(fields_append _ _).1, (fields_append _ _).2, nofun⟩

theorem crcRd : Statement .crcRd := ⟨(fields_append _ _).1, (fields_append _ _).2, fun _ => rfl⟩

theorem xorInit : Statement .xorInit := ⟨(fields_append _ _).1, (fields_append _ _).2, fun _ => rfl⟩

theorem xorByte (d : Byte) : Statement (.xorByte d) := ⟨(fields_append _ _).1, (fields_append _ _).2, nofun⟩

theorem xorRd : Statement .xorRd := ⟨(fields_append _ _).1, (fields_append _ _).2, fun _ => rfl⟩

theorem syncReset : Statement .syncReset := ⟨(fields_append _ _).1, (fields_append _ _).2, fun _ => rfl⟩

theorem syncPush (d : Byte) : Statement (.syncPush d) := ⟨(fields_append _ _).1, (fields_append _ _).2, nofun⟩

theorem syncRelease : Statement .syncRelease := ⟨(fields_append _ _).1, (fields_append _ _).2, fun _ => rfl⟩

theorem rdSeq : Statement .rdSeq := ⟨(fields_append _ _).1, (fields_append _ _).2, fun _ => rfl⟩

theorem rdLen : Statement .rdLen := ⟨(fields_append _ _).1, (fields_append _ _).2, fun _ => rfl⟩

theorem rdPayload : Statement .rdPayload := ⟨(fields_append _ _).1, (fields_append _ _).2, fun _ => rfl⟩

theorem rptrClr : Statement .rptrClr := ⟨(fields_append _ _).1, (fields_append _ _).2, fun _ => rfl⟩

theorem rdGcnt : Statement .rdGcnt := ⟨(fields_append _ _).1, (fields_append _ _).2, fun _ => rfl⟩

end Encoding

end Sys2Proof.Laws
end

