-- ==== Sys2Proof/Laws/Step.lean ====
section
/-! SUPPORT. What a step does, said once for each kind of input, and how a run goes on. -/

namespace Sys2Proof.Machine

/-- A command at the port: the step executes its word. -/
theorem step_command {s : State} {w : Half} {rest : List HostInput} (h : s.inputs = .command w :: rest) :
    step s = execWord w { s with inputs := rest } := by
  have : takeInput s = some (.command w, { s with inputs := rest }) := takeInput_some.2 ⟨rest, h, rfl⟩
  simp [step, this]

/-- A decoded command is executed. -/
theorem execWord_some {w : Half} {i : Instr} (h : decode w = some i) (s : State) : execWord w s = exec i s := by
  simp [execWord, h]

/-- An opcode that decodes to nothing is an illegal command. -/
theorem execWord_none {w : Half} (h : decode w = none) (s : State) : execWord w s = .next (illegalCommand s) := by
  simp [execWord, h]

/-- The host issues a command: the step executes it and what waited at the port still waits. -/
theorem issue_eq (w : Half) (s : State) : issue w s = execWord w s := step_command rfl

@[simp] theorem issueAll_nil (s : State) : issueAll [] s = .next s := rfl

/-- A run goes on from the state its first command leaves. -/
theorem issueAll_cons_next {w : Half} {ws : List Half} {s t : State} (h : issue w s = .next t) :
    issueAll (w :: ws) s = issueAll ws t := by simp [issueAll, h]

/-- A run in two parts. -/
theorem issueAll_append_next {ws vs : List Half} {s t : State} (h : issueAll ws s = .next t) :
    issueAll (ws ++ vs) s = issueAll vs t := by
  induction ws generalizing s with
  | nil => cases h; rfl
  | cons w ws ih =>
    simp only [issueAll, List.cons_append] at h ⊢
    cases hw : issue w s with
    | next u => simp only [hw] at h ⊢; exact ih h
    | fault f => simp [hw] at h
    | refused r => simp [hw] at h

end Sys2Proof.Machine
end

