-- ==== Sys2Proof/Laws/Sync.lean ====
section
/-! SUPPORT. What one SYNC_PUSH can do (spec/42_sync.md R118 and the state rules): one inversion lemma for each synchronizer
state, one for the command, and what the other commands do to a payload that PBUF holds. -/

namespace Sys2Proof.Machine

/-- VARIANT is CTRL[0]; it is the same in two states with the same CTRL. -/
theorem variantC_congr {s t : State} (h : t.ctrl = s.ctrl) : variantC t = variantC s := by simp [variantC, h]

/-- WAIT_START (R126): a frame starts, or the byte is garbage and ERR_SYNC is raised or not. -/
theorem pushWaitStart_cases (b : Byte) (s : State) :
    (b = 0x1B#8 ∧ pushWaitStart b s = startFrame b s) ∨
    (b ≠ 0x1B#8 ∧ s.params.resyncWindow ≠ 0#32 ∧ s.params.resyncWindow ≤ sat32Inc s.gcnt ∧
      pushWaitStart b s = raise .sync { s with gcnt := sat32Inc s.gcnt }) ∨
    (b ≠ 0x1B#8 ∧ ¬ (s.params.resyncWindow ≠ 0#32 ∧ s.params.resyncWindow ≤ sat32Inc s.gcnt) ∧
      pushWaitStart b s = { s with gcnt := sat32Inc s.gcnt }) := by
  unfold pushWaitStart
  by_cases hb : b = 0x1B#8
  · left; simp [hb, startDet, startByte]
  · right
    have : startDet b = false := by simpa [startDet, startByte] using hb
    by_cases hw : s.params.resyncWindow ≠ 0#32 ∧ s.params.resyncWindow ≤ sat32Inc s.gcnt
    · left; simp [hb, this, hw]
    · right; exact ⟨hb, hw, by simp only [this]; simp only [ge_iff_le, hw]; rfl⟩

/-- SEQ (R128): the one byte of variant C, the first or the last of variant A. -/
theorem pushSeq_cases (b : Byte) (s : State) :
    (variantC s = true ∧ pushSeq b s = { acc b s with seqr := b.setWidth 16, fcnt := 0#2, st := .size }) ∨
    (variantC s = false ∧ s.fcnt = 0#2 ∧ pushSeq b s = { acc b s with seqr := setByte 0 b s.seqr, fcnt := 1#2 }) ∨
    (variantC s = false ∧ s.fcnt ≠ 0#2 ∧
      pushSeq b s = { acc b s with seqr := setByte 1 b s.seqr, fcnt := 0#2, st := .size }) := by
  unfold pushSeq
  by_cases hv : variantC s = true
  · left; simp [hv]
  · right; by_cases hf : s.fcnt = 0#2 <;> simp [hv, hf]

/-- SIZE (R129): not the last length byte; the last one within the ceiling; the last one above it. -/
theorem pushSize_cases (b : Byte) (s : State) :
    (lastLenByte s = false ∧ pushSize b s = { acc b s with lenr := takeLenByte b s, fcnt := s.fcnt + 1#2 }) ∨
    (lastLenByte s = true ∧ takeLenByte b s ≤ s.params.maxLen ∧
      pushSize b s = { acc b s with lenr := takeLenByte b s, fcnt := 0#2, st := .token }) ∨
    (lastLenByte s = true ∧ s.params.maxLen < takeLenByte b s ∧
      pushSize b s =
        { acc b s with lenr := takeLenByte b s, fcnt := 0#2, st := .waitStart, err := s.err ||| errBit .len }) := by
  have h1 : lastLenByte (acc b s) = lastLenByte s := rfl
  have h2 : takeLenByte b (acc b s) = takeLenByte b s := rfl
  unfold pushSize
  simp only [h1, h2]
  cases hl : lastLenByte s with
  | false => left; exact ⟨rfl, rfl⟩
  | true =>
    right
    by_cases hm : s.params.maxLen < takeLenByte b s
    · right; exact ⟨rfl, hm, by simp [hm, raise]⟩
    · left; exact ⟨rfl, by simpa [BitVec.not_lt] using hm, by simp [hm]⟩

/-- TOKEN (R130): the TOKEN byte, or a wrong one. -/
theorem pushToken_cases (b : Byte) (s : State) :
    (b = 0x0E#8 ∧ pushToken b s =
      { acc b s with dcnt := 0#32, fcnt := 0#2, st := if s.lenr = 0#32 then .csum else .data }) ∨
    (b ≠ 0x0E#8 ∧ pushToken b s = { acc b s with err := s.err ||| errBit .token, st := .waitStart }) := by
  unfold pushToken
  by_cases hb : b = 0x0E#8
  · left; simp [hb, tokenDet, tokenByte]
  · right
    have : tokenDet b = false := by simpa [tokenDet, tokenByte] using hb
    exact ⟨hb, by simp only [this]; rfl⟩

/-- DATA (R131): it goes on exactly when DCNT is inside PBUF. -/
theorem pushData_ok {b : Byte} {s t : State} :
    pushData b s = .ok t ↔ s.dcnt < s.params.maxLen ∧
      t = { acc b s with
            pbuf := s.pbuf.write s.dcnt.toNat b, dcnt := s.dcnt + 1#32
            fcnt := if s.dcnt + 1#32 = s.lenr then 0#2 else s.fcnt
            st := if s.dcnt + 1#32 = s.lenr then .csum else s.st } := by
  unfold pushData
  by_cases hm : s.dcnt < s.params.maxLen
  · have hw : memWrite s.dcnt b (acc b s) = .ok { acc b s with pbuf := s.pbuf.write s.dcnt.toNat b } :=
      memWrite_ok.2 ⟨hm, rfl⟩
    by_cases hd : s.dcnt + 1#32 = s.lenr <;> simp [hw, hm, hd, eq_comm]
  · have hw : memWrite s.dcnt b (acc b s) = .error .pbufOutOfRange := memWrite_error.2 ⟨hm, rfl⟩
    simp [hw, hm]

/-- CSUM (R132): the first of two CRC bytes; the last checksum byte, with a zero residue or another. -/
theorem pushCsum_cases (b : Byte) (s : State) :
    (variantC s = false ∧ s.fcnt = 0#2 ∧ pushCsum b s = { acc b s with fcnt := 1#2 }) ∨
    (¬ (variantC s = false ∧ s.fcnt = 0#2) ∧ residueZero (acc b s) = true ∧ pushCsum b s =
      { acc b s with
        fcnt := 0#2, cksOk := true, isEvt := isEvent s.params (variantC s) s.seqr, rptr := 0#32, st := .done }) ∨
    (¬ (variantC s = false ∧ s.fcnt = 0#2) ∧ residueZero (acc b s) = false ∧ pushCsum b s =
      { acc b s with
        fcnt := 0#2, cksOk := false, isEvt := isEvent s.params (variantC s) s.seqr, rptr := 0#32, st := .done
        err := s.err ||| errBit .cksum }) := by
  unfold pushCsum
  by_cases hc : variantC s = false ∧ s.fcnt = 0#2
  · left; refine ⟨hc.1, hc.2, ?_⟩; simp only [variantC_acc, acc_fcnt, hc]; rfl
  · right
    simp only [variantC_acc, acc_fcnt, hc, if_false, enterDone_cksOk]
    cases hz : residueZero (acc b s) with
    | true => left; exact ⟨not_false, rfl, rfl⟩
    | false => right; exact ⟨not_false, rfl, rfl⟩

/-- SYNC_PUSH (R125): exactly one state rule handles the byte. -/
theorem execSyncPush_next {b : Byte} {s t : State} (h : execSyncPush b s = .next t) :
    (s.st = .waitStart ∧ t = respond 0#32 (pushWaitStart b s)) ∨ (s.st = .seq ∧ t = respond 0#32 (pushSeq b s)) ∨
    (s.st = .size ∧ t = respond 0#32 (pushSize b s)) ∨ (s.st = .token ∧ t = respond 0#32 (pushToken b s)) ∨
    (s.st = .data ∧ ∃ u, pushData b s = .ok u ∧ t = respond 0#32 u) ∨
    (s.st = .csum ∧ t = respond 0#32 (pushCsum b s)) ∨ (s.st = .done ∧ t = respond 0#32 (raise .overrun s)) := by
  cases hs : s.st <;> simp only [execSyncPush, hs, dataByte] at h
  case data => split at h <;> cases h; simp [*]
  case unused => cases h
  all_goals cases h; simp [pushDone]

/-- A command other than SYNC_PUSH that leaves a payload in PBUF found it there and keeps ST, PBUF and DCNT (R50, R115). -/
theorem exec_keeps_payload {i : Instr} {s t : State} (hi : ∀ b, i ≠ .syncPush b) (e : exec i s = .next t)
    (ht : t.st = .data ∨ t.st = .csum ∨ t.st = .done) : t.st = s.st ∧ t.pbuf = s.pbuf ∧ t.dcnt = s.dcnt := by
  cases i
  case syncPush b => exact absurd rfl (hi b)
  case wrCtrl d =>
    simp only [exec, execWrCtrl] at e
    split at e <;> cases e
    · exact ⟨rfl, rfl, rfl⟩
    · simp at ht
  case syncRelease =>
    simp only [exec, execSyncRelease] at e
    split at e <;> cases e
    · simp at ht
    · exact ⟨rfl, rfl, rfl⟩
  case rdPayload =>
    simp only [exec, execRdPayload] at e
    split at e
    · split at e <;> cases e
      exact ⟨rfl, rfl, rfl⟩
    · cases e; exact ⟨rfl, rfl, rfl⟩
  case softReset => cases e; simp at ht
  case syncReset => cases e; simp at ht
  all_goals cases e; exact ⟨rfl, rfl, rfl⟩

end Sys2Proof.Machine
end

