-- ==== Sys2Proof/Tests/Slice0.lean ====
section
/-! SUPPORT. The implementer's own tests. Expected values come from the rules and from spec/95_test_vectors.md (the row is named);
"witness_<Name>" shows states and operands that meet the hypotheses of Obligations.<Name>, each clause on its own. -/

namespace Sys2Proof.Tests

open Sys2Proof Sys2Proof.Machine

/-- The state after reset. -/
def base : State := State.reset

/-- The outcome is a next state of which `f` holds. -/
def nextHas (o : Host.Outcome State Fault Refusal) (f : State → Bool) : Bool :=
  match o with
  | .next t => f t
  | .fault _ => false
  | .refused _ => false

/-- A state that holds a frame of one payload byte 0x80, as after vector V3.5. -/
def held : State :=
  { base with st := .done, seqr := 1#16, lenr := 1#32, dcnt := 1#32, rcrc := 0#16, rxor := 0xDB#8, cksOk := true,
              pbuf := [(0, 0x80#8)] }

/-! ### WellFormed -/

/-- R66: a WR_CTRL with an ignored bit set is not as an assembler writes it. -/
theorem smoke_wrCtrl_refused : (Instr.wrCtrl 0x08#8).wellFormed = false := by decide

/-- R66: a CLR_ERR with D[7] set is not as an assembler writes it. -/
theorem smoke_clrErr_refused : (Instr.clrErr 0x80#8).wellFormed = false := by decide

/-- R71: the expansions of the pseudo-instructions are well-formed. -/
theorem smoke_pseudo_wellFormed :
    ((expand .clrErrAll ++ expand .selVariantA ++ expand .selVariantC).all Instr.wellFormed) = true := by decide

/-! ### Decoding: one word for each constructor, written out as OPC and D from R63 and R67 -/

theorem test_decode_control :
    decode 0b0000000000000000#16 = some .nop ∧ decode 0b0000000100000000#16 = some .softReset ∧
    decode 0b0000001000000101#16 = some (.wrCtrl 0b00000101#8) ∧ decode 0b0000001100000000#16 = some .rdCtrl ∧
    decode 0b0000010000000000#16 = some .rdStatus ∧ decode 0b0000010101000000#16 = some (.clrErr 0b01000000#8) := by
  decide

theorem test_decode_crc :
    decode 0b0001000000000000#16 = some .crcInit ∧ decode 0b0001000111001101#16 = some (.crcByte 0b11001101#8) ∧
    decode 0b0001001000000000#16 = some .crcRd := by decide

theorem test_decode_xor :
    decode 0b0010000000000000#16 = some .xorInit ∧ decode 0b0010000100000101#16 = some (.xorByte 0b00000101#8) ∧
    decode 0b0010001000000000#16 = some .xorRd := by decide

theorem test_decode_sync :
    decode 0b0011000000000000#16 = some .syncReset ∧ decode 0b0011000100011011#16 = some (.syncPush 0b00011011#8) ∧
    decode 0b0011001000000000#16 = some .syncRelease ∧ decode 0b0011001100000000#16 = some .rdSeq ∧
    decode 0b0011010000000000#16 = some .rdLen ∧ decode 0b0011010100000000#16 = some .rdPayload ∧
    decode 0b0011011000000000#16 = some .rptrClr ∧ decode 0b0011011100000000#16 = some .rdGcnt := by decide

/-- R68, at both ends of each range; V4.15. -/
theorem test_decode_illegal :
    [0x0600#16, 0x0FFF#16, 0x1300#16, 0x1FFF#16, 0x2300#16, 0x2FFF#16, 0x3800#16, 0xFFFF#16].all
      (fun w => decode w == none) = true := by decide

/-- An ignored D is dropped, a D above `nbits` is not there. -/
theorem test_decodeTableWord :
    decodeTableWord 16 0x00FF = some .nop ∧ decodeTableWord 16 0x311B = some (.syncPush 0x1B#8) ∧
    decodeTableWord 8 0x31 = some .nop := by decide

/-- R70's examples, and a line with a comment. -/
theorem test_assemble :
    assembleLine "SYNC_PUSH 0x1B ; start".toList = some [0x311B#16] ∧ assembleLine "CRC_INIT".toList = some [0x1000#16] ∧
    assembleLine "CRC_BLOCK 0x31, 0x32".toList = some [0x1131#16, 0x1132#16] ∧ assembleLine "NOP 0x00".toList = none := by
  decide

/-! ### One step of each instruction -/

/-- V4.2: NOP 0x00FF. -/
theorem test_nop : nextHas (exec .nop held) (fun t => t == { held with resps := [0#32] }) = true := by decide

/-- V4.14. -/
theorem test_softReset :
    nextHas (exec .softReset { held with err := 0x41#7, ctrl := 0x07#8 })
      (fun t => t.err == 0#7 && t.st == .waitStart && t.ctrl == 0#8 && t.rcrc == 0xFFFF#16 && !irq t) = true := by decide

/-- V4.3: D[7:3] are ignored; VARIANT changes, so the frame is dropped. -/
theorem test_wrCtrl_changes_variant :
    nextHas (exec (.wrCtrl 0xFF#8) held) (fun t => t.ctrl == 0x07#8 && t.st == .waitStart && t.lenr == 0#32) = true := by
  decide

/-- V4.12: the same VARIANT keeps the frame. -/
theorem test_wrCtrl_same_variant :
    nextHas (exec (.wrCtrl 0x06#8) { base with st := .seq, fcnt := 1#2 })
      (fun t => t.ctrl == 0x06#8 && t.st == .seq && t.fcnt == 1#2) = true := by decide

/-- V4.3. -/
theorem test_rdCtrl : nextHas (exec .rdCtrl { base with ctrl := 0x07#8 }) (fun t => t.resps == [7#32]) = true := by decide

/-- V4.1. -/
theorem test_rdStatus_reset : nextHas (exec .rdStatus base) (fun t => t.resps == [0x00020000#32]) = true := by decide

/-- V5.3: both causes of `irq`. -/
theorem test_rdStatus_both_causes :
    nextHas (exec .rdStatus { held with ctrl := 0x06#8, err := 0x01#7, cksOk := false })
      (fun t => t.resps == [0x00060116#32]) = true := by decide

/-- V4.7. -/
theorem test_clrErr : nextHas (exec (.clrErr 0x01#8) { base with err := 0x03#7 }) (fun t => t.err == 0x02#7) = true := by
  decide

/-- V4.8: D[7] is ignored. -/
theorem test_clrErr_all : nextHas (exec (.clrErr 0xFF#8) { base with err := 0x7F#7 }) (fun t => t.err == 0#7) = true := by
  decide

/-- V1.24. -/
theorem test_crcInit :
    nextHas (exec .crcInit { base with crc := 0x1234#16 }) (fun t => t.crc == 0xFFFF#16 && !crcZero t) = true := by decide

/-- V1.25. -/
theorem test_crcByte_00 : nextHas (exec (.crcByte 0x00#8) base) (fun t => t.crc == 0x0F87#16) = true := by decide

/-- V1.28, the second byte; RCRC is another register. -/
theorem test_crcByte_residue :
    nextHas (exec (.crcByte 0x83#8) { base with crc := 0x0083#16 })
      (fun t => t.crc == 0#16 && crcZero t && t.rcrc == 0xFFFF#16) = true := by decide

/-- V1.27. -/
theorem test_crcRd :
    nextHas (exec .crcRd { base with crc := 0x83CD#16 }) (fun t => t.resps == [0x000083CD#32] && t.crc == 0x83CD#16) = true := by
  decide

/-- V2.8. -/
theorem test_xorInit : nextHas (exec .xorInit { base with xor := 0x5A#8 }) (fun t => t.xor == 0#8 && xorZero t) = true := by
  decide

/-- V2.9. -/
theorem test_xorByte : nextHas (exec (.xorByte 0x05#8) { base with xor := 0x1B#8 }) (fun t => t.xor == 0x1E#8) = true := by
  decide

/-- V2.12. -/
theorem test_xorRd : nextHas (exec .xorRd { base with xor := 0x01#8 }) (fun t => t.resps == [1#32]) = true := by decide

/-- V3.27. -/
theorem test_syncReset :
    nextHas (exec .syncReset { base with st := .data, dcnt := 3#32, lenr := 5#32, err := 0x01#7 })
      (fun t => t.st == .waitStart && t.dcnt == 0#32 && t.rcrc == 0xFFFF#16 && t.err == 0x01#7) = true := by decide

/-- V3.18: the seventh byte is the last length byte, and 0x00010001 is above the ceiling. -/
theorem test_syncPush_len :
    nextHas (exec (.syncPush 0x00#8) { base with st := .size, fcnt := 3#2, lenr := 0x00010001#32 })
      (fun t => t.err == 0x02#7 && t.st == .waitStart && t.lenr == 0x00010001#32) = true := by decide

/-- V3.6: the wrong last CRC byte; RCRC after the first ten bytes is 0x0083 (W2a). -/
theorem test_syncPush_bad_csum :
    nextHas (exec (.syncPush 0x84#8) { held with st := .csum, fcnt := 1#2, rcrc := 0x0083#16 })
      (fun t => t.st == .done && !t.cksOk && t.err == 0x01#7 && t.rcrc == 0x74BF#16) = true := by decide

/-- V3.24: ST only. -/
theorem test_syncRelease :
    nextHas (exec .syncRelease held) (fun t => t.st == .waitStart && t.seqr == 1#16 && t.cksOk) = true := by decide

/-- V3.20: part-assembled. -/
theorem test_rdSeq :
    nextHas (exec .rdSeq { base with st := .seq, fcnt := 1#2, seqr := 0x34#16 }) (fun t => t.resps == [0x34#32]) = true := by
  decide

/-- V3.14: the rejected length. -/
theorem test_rdLen : nextHas (exec .rdLen { base with lenr := 257#32 }) (fun t => t.resps == [0x00000101#32]) = true := by
  decide

/-- V3.22, the first read. -/
theorem test_rdPayload : nextHas (exec .rdPayload held) (fun t => t.resps == [0x80#32] && t.rptr == 1#32) = true := by decide

/-- V3.22, the second read. -/
theorem test_rdPayload_range :
    nextHas (exec .rdPayload { held with rptr := 1#32 }) (fun t => t.resps == [0#32] && t.err == 0x20#7 && t.rptr == 1#32)
      = true := by decide

/-- R46: an index within PBUF that is not listed names a byte, too (log 7). -/
theorem test_memRead_unlisted : memRead 255#32 base = .ok 0x00#8 := by decide

/-- R131: a payload byte 0x00 over another byte; the memory stays in canonical form. -/
theorem test_syncPush_data_zero :
    nextHas (exec (.syncPush 0x00#8) { base with st := .data, lenr := 1#32, pbuf := [(0, 0x80#8), (1, 0x81#8)] })
      (fun t => t.pbuf.read 0 == 0x00#8 && t.pbuf == [(1, 0x81#8)] && t.st == .csum) = true := by decide

/-- V3.23. -/
theorem test_rptrClr : nextHas (exec .rptrClr { held with rptr := 1#32 }) (fun t => t.rptr == 0#32) = true := by decide

/-- V3.1. -/
theorem test_rdGcnt : nextHas (exec .rdGcnt { base with gcnt := 2#32 }) (fun t => t.resps == [2#32]) = true := by decide

/-! ### The step, the checksums, the frames -/

/-- V4.4: an illegal command. -/
theorem test_step_illegal :
    nextHas (step (base.withFetchWord 16 0x3800)) (fun t => t.err == 0x40#7 && t.resps == [0#32] && t.inputs == []) = true := by
  decide

/-- V3.2: the step runs the issued SYNC_PUSH of a START byte. -/
theorem test_step_start :
    nextHas (step (base.withFetchWord 16 0x311B)) (fun t => t.st == .seq && t.rcrc == 0xA1D5#16 && t.rxor == 0x1B#8) = true := by
  decide

/-- V1.12, the check value of R91. -/
theorem test_crc16_check :
    crc16 Params.reference [0x31#8, 0x32#8, 0x33#8, 0x34#8, 0x35#8, 0x36#8, 0x37#8, 0x38#8, 0x39#8] = 0x6F91#16 := by decide +kernel

/-- V2.2. -/
theorem test_xor8 : xor8 [0x1B#8, 0x05#8, 0x00#8, 0x01#8, 0x0E#8, 0x10#8] = 0x01#8 := by decide

/-- W2a. -/
theorem test_frameA :
    frameA Params.reference 1#16 [0x80#8] =
      [0x1B#8, 0x01#8, 0x00#8, 0x01#8, 0x00#8, 0x00#8, 0x00#8, 0x0E#8, 0x80#8, 0xCD#8, 0x83#8] := by decide +kernel

/-- W1. -/
theorem test_frameC : frameC 5#8 [0x10#8] = [0x1B#8, 0x05#8, 0x00#8, 0x01#8, 0x0E#8, 0x10#8, 0x01#8] := by decide

/-- R94: the printed table has 256 entries and its last row is as printed. -/
theorem test_crcTable : crcTable.length = 256 ∧ crcTable[0xFF]? = some 0x0F78#16 := by decide +kernel

/-- R143: the frame held after V3.5. -/
theorem test_heldFrame :
    heldFrame held = some { sequence := some 1#16, payload := [0x80#8], checksumValid := true, isEvent := false } := by decide

/-! ### Witnesses: the hypotheses of each statement can be met -/

/-- A state of each synchronizer state in either variant that meets the invariant is among these. -/
theorem witness_invariant_states :
    MachineInvariant base ∧ MachineInvariant held ∧
    MachineInvariant { base with ctrl := 0x01#8, st := .seq } ∧
    MachineInvariant { base with st := .size, fcnt := 3#2, lenr := 1#32 } ∧
    MachineInvariant { base with st := .token, lenr := 256#32 } ∧
    MachineInvariant { base with st := .data, lenr := 256#32, dcnt := 1#32, pbuf := [(0, 0x1B#8)] } ∧
    MachineInvariant { base with st := .csum, fcnt := 1#2 } := by
  refine ⟨?_, ?_, ?_, ?_, ?_, ?_, ?_⟩ <;> refine ⟨?_, ?_, ?_, ?_, ?_, ?_, ?_⟩ <;> decide

theorem witness_DecodeAndEncodeAgree :
    (∃ (w : Half) (i : Instr), decode w = some i ∧ i.takesD = true) ∧
    ∃ (w : Half) (i : Instr), decode w = some i ∧ i.takesD = false :=
  ⟨⟨0x311B#16, .syncPush 0x1B#8, by decide⟩, ⟨0x00FF#16, .nop, by decide⟩⟩

theorem witness_IllegalOpcodesAndTheirEffect :
    ∃ (w : Half) (s : State) (rest : List HostInput), decode w = none ∧ s.inputs = .command w :: rest :=
  ⟨0x06FF#16, { base with inputs := [.command 0x06FF#16] }, [], by decide⟩

theorem witness_IgnoredBitsOfDHaveNoEffect :
    (∃ (opc d d' : Byte) (i : Instr), d ≠ d' ∧ decodeFields opc d = some i ∧ i.takesD = false) ∧
    (∃ d d' : Byte, d ≠ d' ∧ d.extractLsb' 0 3 = d'.extractLsb' 0 3) ∧
    ∃ d d' : Byte, d ≠ d' ∧ d.extractLsb' 0 7 = d'.extractLsb' 0 7 :=
  ⟨⟨0x37#8, 0#8, 0xFF#8, .rdGcnt, by decide⟩, ⟨0x07#8, 0xFF#8, by decide⟩, ⟨0x7F#8, 0xFF#8, by decide⟩⟩

theorem witness_StepExecutesTheIssuedCommand :
    (∃ (s : State) (w : Half) (rest : List HostInput) (i : Instr), s.inputs = .command w :: rest ∧ decode w = some i) ∧
    ∃ s : State, s.inputs = [] :=
  ⟨⟨base.withFetchWord 16 0x0507, 0x0507#16, [], .clrErr 7#8, by decide⟩, ⟨base, rfl⟩⟩

theorem witness_ResetPulseGivesResetValues : ∃ (s : State) (rest : List HostInput), s.inputs = .reset :: rest :=
  ⟨{ held with inputs := [.reset, .command 0#16] }, [.command 0#16], rfl⟩

theorem witness_WriteCtrlKeepsOrDropsTheFrame :
    (∃ (d : Byte) (s : State), d.getLsbD 0 = s.ctrl.getLsbD 0) ∧ ∃ (d : Byte) (s : State), d.getLsbD 0 ≠ s.ctrl.getLsbD 0 :=
  ⟨⟨0x06#8, held, by decide⟩, ⟨0x01#8, held, by decide⟩⟩

theorem witness_CrcInitLoadsTheSeed : base.params.crcSeed = 0xFFFF#16 := by decide

theorem witness_CrcStepLaws : (0x8408#16).getLsbD 15 = true := by decide

theorem witness_ZeroResidueIffChecksumMatches : Params.reference.crcPolyR = 0x8408#16 := by decide

theorem witness_XorLaws : [1#8, 2#8].Perm [2#8, 1#8] := by decide

theorem witness_PushInWaitStart :
    base.st = .waitStart ∧ (0x1B#8 : Byte) = 0x1B#8 ∧ (0x1C#8 : Byte) ≠ 0x1B#8 := by decide

/-- Every clause of SEQ, CSUM and TOKEN. -/
theorem witness_PushInSeq_PushInCsum_PushInToken :
    (∃ s : State, s.st = .seq ∧ s.ctrl.getLsbD 0 = false ∧ s.fcnt = 0#2) ∧
    (∃ s : State, s.st = .seq ∧ s.ctrl.getLsbD 0 = false ∧ s.fcnt ≠ 0#2) ∧
    (∃ s : State, s.st = .seq ∧ s.ctrl.getLsbD 0 = true) ∧
    (∃ s : State, s.st = .csum ∧ s.ctrl.getLsbD 0 = false ∧ s.fcnt = 0#2) ∧
    (∃ s : State, s.st = .csum ∧ s.ctrl.getLsbD 0 = false ∧ s.fcnt ≠ 0#2) ∧
    (∃ s : State, s.st = .csum ∧ s.ctrl.getLsbD 0 = true) ∧
    (∃ s : State, s.st = .token) ∧ (0x0F#8 : Byte) ≠ 0x0E#8 :=
  ⟨⟨{ base with st := .seq }, by decide⟩, ⟨{ base with st := .seq, fcnt := 1#2 }, by decide⟩,
    ⟨{ base with st := .seq, ctrl := 1#8 }, by decide⟩, ⟨{ base with st := .csum }, by decide⟩,
    ⟨{ base with st := .csum, fcnt := 1#2 }, by decide⟩, ⟨{ base with st := .csum, ctrl := 1#8 }, by decide⟩,
    ⟨{ base with st := .token }, by decide⟩, by decide⟩

/-- Every clause of SIZE, and of its last byte both sides of the ceiling: 256 is within 256, 257 is not. -/
theorem witness_PushInSize :
    (∀ f : BitVec 2, ∃ s : State, s.st = .size ∧ s.ctrl.getLsbD 0 = false ∧ s.fcnt = f) ∧
    (∃ s : State, s.st = .size ∧ s.ctrl.getLsbD 0 = true ∧ s.fcnt = 0#2) ∧
    (∃ s : State, s.st = .size ∧ s.ctrl.getLsbD 0 = true ∧ s.fcnt = 1#2) ∧
    (256#32 ≤ base.params.maxLen ∧ ¬ 257#32 ≤ base.params.maxLen) :=
  ⟨fun f => ⟨{ base with st := .size, fcnt := f }, rfl, (by decide : base.ctrl.getLsbD 0 = false), rfl⟩, ⟨{ base with st := .size, ctrl := 1#8 }, by decide⟩,
    ⟨{ base with st := .size, ctrl := 1#8, fcnt := 1#2 }, by decide⟩, by decide⟩

theorem witness_PushInData : ∃ s : State, s.st = .data ∧ s.dcnt < s.params.maxLen :=
  ⟨{ base with st := .data, dcnt := 255#32, lenr := 256#32 }, by decide⟩

theorem witness_PushInDone_HeldFrameBlocksTheByteStream : held.st = .done := by decide

theorem witness_SyncReleaseLeavesDone : held.st = .done ∧ base.st ≠ .done := by decide

theorem witness_ReadSeqAnswersSeqr : ∃ s : State, SyncInvariant s ∧ s.ctrl.getLsbD 0 = true :=
  ⟨{ base with ctrl := 1#8, st := .size, seqr := 0xFF#16 }, by decide⟩

theorem witness_ReadPayloadAnswersTheNextByte :
    (held.lenr ≤ held.params.maxLen ∧ held.st = .done ∧ held.rptr < held.lenr) ∧
    ¬ (base.st = .done ∧ base.rptr < base.lenr) ∧
    ¬ (({ held with rptr := 1#32 } : State).st = .done ∧ ({ held with rptr := 1#32 } : State).rptr < held.lenr) :=
  by decide

theorem witness_ReadGarbageCount : SyncInvariant held ∧ held.st ≠ .waitStart := by decide

/-- Each of the three stops has a state. -/
theorem witness_StopsOnlyWhereNoRuleApplies :
    (match exec (.syncPush 0#8) { base with st := .unused } with | .fault f => f == .stUnused | _ => false) = true ∧
    (match exec (.syncPush 0#8) { base with st := .data, dcnt := 256#32 } with
      | .fault f => f == .pbufOutOfRange | _ => false) = true ∧
    (match exec .rdPayload { held with rptr := 256#32, lenr := 257#32 } with
      | .fault f => f == .pbufOutOfRange | _ => false) = true ∧
    MachineInvariant held :=
  ⟨by decide, by decide, by decide, witness_invariant_states.2.1⟩

theorem witness_StepKeepsTheInvariant :
    ∃ s t : State, MachineInvariant s ∧ step s = .next t :=
  ⟨held.withFetchWord 16 0x3500, _, witness_invariant_states.2.1, rfl⟩

/-- In DATA with one byte stored and another pushed, and in DONE. -/
theorem witness_HeldPayloadIsTheBytesPushed :
    (∃ s t : State, MachineInvariant s ∧ s.st = .data ∧ HoldsPayload s [0x1B#8] ∧ bytePushed s = [0x00#8] ∧ step s = .next t) ∧
    MachineInvariant held ∧ HoldsPayload held [0x80#8] ∧ held.st = .done :=
  ⟨⟨({ base with st := .data, lenr := 256#32, dcnt := 1#32, pbuf := [(0, 0x1B#8)] } : State).withFetchWord 16 0x3100, _,
      witness_invariant_states.2.2.2.2.2.1, by decide, by decide, by decide, rfl⟩,
    witness_invariant_states.2.1, by decide, by decide⟩

theorem witness_EveryRunCompletes : MachineInvariant held := witness_invariant_states.2.1

theorem witness_OneResponsePerCommand_AtMostOneErrorPerCommand :
    (∃ t : State, issue 0x1200#16 base = .next t) ∧ ∃ t : State, issue 0x311B#16 held = .next t :=
  ⟨⟨_, rfl⟩, ⟨_, rfl⟩⟩

theorem witness_EachItemChangesOnlyUnderItsCommands :
    (∃ (s t : State) (d : Byte), exec (.wrCtrl d) s = .next t ∧ d.getLsbD 0 = s.ctrl.getLsbD 0) ∧
    (∃ s t : State, exec .syncRelease s = .next t ∧ s.st ≠ .done) ∧
    ∃ s t : State, exec .rptrClr s = .next t :=
  ⟨⟨held, _, 2#8, rfl, by decide⟩, ⟨base, _, rfl, by decide⟩, ⟨held, _, rfl⟩⟩

theorem witness_SynchronizerIgnoresTheStandaloneUnits :
    ∃ (i : Instr) (s t : State), 0x30#8 ≤ i.opcode ∧ exec i s = .next t :=
  ⟨.syncPush 0x1B#8, base, _, by decide, rfl⟩

theorem witness_EnablesOnlyGateTheInterrupt :
    ∃ (i : Instr) (s t : State) (c : BitVec 8), c ≠ s.ctrl ∧ c.getLsbD 0 = s.ctrl.getLsbD 0 ∧ i ≠ .rdCtrl ∧ i ≠ .rdStatus ∧
      exec i s = .next t :=
  ⟨.syncPush 0x1B#8, held, _, 0x06#8, by decide, by decide, by decide, by decide, rfl⟩

theorem witness_IrqFollowsItsCauses :
    (∃ s t : State, exec .syncRelease s = .next t ∨ exec .syncReset s = .next t) ∧
    (∃ (d : Byte) (s t : State), d.getLsbD 0 ≠ s.ctrl.getLsbD 0 ∧ exec (.wrCtrl d) s = .next t) ∧
    (∃ (d : Byte) (s t : State), d.extractLsb' 0 7 = 0x7F#7 ∧ exec (.clrErr d) s = .next t) ∧
    (∃ (d : Byte) (s t : State), d.extractLsb' 1 2 = 0#2 ∧ exec (.wrCtrl d) s = .next t) ∧
    ∃ s t : State, exec .softReset s = .next t :=
  ⟨⟨held, _, .inl rfl⟩, ⟨1#8, held, _, by decide, rfl⟩, ⟨0xFF#8, held, _, by decide, rfl⟩, ⟨1#8, held, _, by decide, rfl⟩,
    ⟨held, _, rfl⟩⟩

/-- The four statements about variant A frames, at the longest payload of a block with a ceiling of 2. -/
theorem witness_RoundTripVariantA_FrameWithAnyChecksumIsDelivered_FrameAfterGarbageIsDelivered :
    ∃ (s : State) (g payload : List Byte), s.ctrl.getLsbD 0 = false ∧ s.st = .waitStart ∧ (∀ b ∈ g, b ≠ 0x1B#8) ∧ g ≠ [] ∧
      payload.length = s.params.maxLen.toNat :=
  ⟨{ base with params := { Params.reference with maxLen := 2#32 } }, [0x0E#8], [0x1B#8, 0x0E#8], by decide⟩

theorem witness_RoundTripVariantC_FrameWithAnyChecksumIsDelivered :
    ∃ (s : State) (payload : List Byte), s.ctrl.getLsbD 0 = true ∧ s.st = .waitStart ∧
      payload.length ≤ s.params.maxLen.toNat ∧ payload.length < 2 ^ 16 :=
  ⟨{ base with ctrl := 1#8 }, [0x10#8], by decide⟩

/-- At the top of the counter, too (V3.4). -/
theorem witness_GarbageIsDiscardedAndCounted :
    ∃ (s : State) (g : List Byte) (n : Word), s.st = .waitStart ∧ (∀ b ∈ g, b ≠ 0x1B#8) ∧
      n.toNat = min (s.gcnt.toNat + g.length) (2 ^ 32 - 1) :=
  ⟨{ base with gcnt := 0xFFFFFFFF#32 }, [0x00#8], 0xFFFFFFFF#32, by decide⟩

theorem witness_PayloadReadsOutInOrder :
    held.st = .done ∧ held.rptr = 0#32 ∧ held.lenr ≤ held.params.maxLen ∧
      held.pbuf.readBytes 0 held.lenr.toNat = [0x80#8] := by decide

theorem witness_FrameSizeIsBounded :
    ∃ (s : State) (bs : List Byte) (bound : Nat), s.st = .waitStart ∧
      bound = s.params.maxLen.toNat + (if s.ctrl.getLsbD 0 = true then 6 else 10) ∧ bs.length + 1 = bound :=
  ⟨{ base with params := { Params.reference with maxLen := 0#32 } }, List.replicate 9 0#8, 10, by decide⟩

end Sys2Proof.Tests
end

section
/-! PROOFS. The statements about the state as a whole (spec/10_state.md): what the step executes, the reset side of the
invariant, what each command leaves unchanged, which items it does not read, and the interrupt output. -/

namespace Sys2Proof.Machine

/-! ### The step and the power-on state -/

/-- Settles O5: the step takes the command off the port and executes what its word decodes to; an idle port changes nothing. -/
theorem stepExecutesTheIssuedCommand : Obligations.StepExecutesTheIssuedCommand := by
  refine ⟨fun s w rest i hin hdec => ?_, fun s hin => ?_⟩
  · rw [step_command hin, execWord_some hdec]
  · simp [step, takeInput_none.2 hin]

/-- Settles O41: ST is WAIT_START and the fields are 0, so each clause of R135 holds by its ST or by its value. -/
theorem powerOnMeetsTheInvariant : Obligations.PowerOnMeetsTheInvariant := by
  intro p
  have hsync : SyncInvariant (State.powerOn p) := by
    refine ⟨?_, ?_, ?_, ?_, ?_, ?_, ?_⟩ <;> simp [FieldIndexInRange, State.powerOn, stCode, variantC]
  refine ⟨hsync, ?_, ⟨Memory.powerOn_wf p, ?_⟩, ?_, ?_, ?_, ?_⟩ <;>
    simp [CtrlReservedZero, VariantCCsumIndexZero, State.powerOn]

/-! ### What SYNC_PUSH leaves unchanged -/

/-- Raising flags clears none (R25). -/
@[simp] theorem err_and_not_or_self (e f : BitVec 7) : e &&& ~~~(e ||| f) = 0#7 := by
  ext j hj
  cases h : e[j] <;> simp [h]

/-- A PBUF of content `m` after SYNC_PUSH of `b` in state `s`: the byte is stored at DCNT in DATA only (R131). -/
def pbufAfterPush (b : Byte) (s : State) (m : Memory) : Memory :=
  if s.st = .data then m.write s.dcnt.toNat b else m

theorem pbufAfterPush_of_data {s : State} (h : s.st = .data) (b : Byte) (m : Memory) :
    pbufAfterPush b s m = m.write s.dcnt.toNat b := if_pos h

theorem pbufAfterPush_of_not_data {s : State} (h : s.st ≠ .data) (b : Byte) (m : Memory) :
    pbufAfterPush b s m = m := if_neg h

/-- PBUF changes only at the index DCNT, and there only in DATA (R50). -/
theorem read_pbufAfterPush (b : Byte) {s : State} (m : Memory) {a : Nat} (h : ¬ (s.st = .data ∧ a = s.dcnt.toNat)) :
    (pbufAfterPush b s m).read a = m.read a := by
  by_cases hd : s.st = .data
  · rw [pbufAfterPush_of_data hd]
    exact Memory.read_write_other m b fun ha => h ⟨hd, ha⟩
  · rw [pbufAfterPush_of_not_data hd]

/-- The frame of SYNC_PUSH: the parameters, the port, CTRL, CRC and XOR stay, no flag falls, and PBUF is as R131 has it. -/
theorem execSyncPush_frame {b : Byte} {s t : State} (h : execSyncPush b s = .next t) :
    t.params = s.params ∧ t.inputs = s.inputs ∧ t.ctrl = s.ctrl ∧ t.crc = s.crc ∧ t.xor = s.xor ∧
      s.err &&& ~~~t.err = 0#7 ∧ t.pbuf = pbufAfterPush b s s.pbuf := by
  rcases execSyncPush_next h with
    ⟨hs, rfl⟩ | ⟨hs, rfl⟩ | ⟨hs, rfl⟩ | ⟨hs, rfl⟩ | ⟨hs, u, hu, rfl⟩ | ⟨hs, rfl⟩ | ⟨hs, rfl⟩
  case inr.inr.inr.inr.inl =>
    obtain ⟨-, rfl⟩ := pushData_ok.1 hu
    simp [pbufAfterPush_of_data hs]
  all_goals rw [pbufAfterPush_of_not_data (by simp [hs])]
  · rcases pushWaitStart_cases b s with ⟨-, e⟩ | ⟨-, -, -, e⟩ | ⟨-, -, e⟩ <;> simp [e]
  · rcases pushSeq_cases b s with ⟨-, e⟩ | ⟨-, -, e⟩ | ⟨-, -, e⟩ <;> simp [e]
  · rcases pushSize_cases b s with ⟨-, e⟩ | ⟨-, -, e⟩ | ⟨-, -, e⟩ <;> simp [e]
  · rcases pushToken_cases b s with ⟨-, e⟩ | ⟨-, e⟩ <;> simp [e]
  · rcases pushCsum_cases b s with ⟨-, -, e⟩ | ⟨-, -, e⟩ | ⟨-, -, e⟩ <;> simp [e]
  · simp

/-! ### The frame of every command -/

/-- WR_CTRL writes CTRL and, when VARIANT changes, abandons the frame (R153). -/
theorem exec_wrCtrl_next {d : Byte} {s t : State} :
    exec (.wrCtrl d) s = .next t ↔
      (d.getLsbD 0 = s.ctrl.getLsbD 0 ∧ t = respond 0#32 { s with ctrl := ctrlImage d }) ∨
      (d.getLsbD 0 ≠ s.ctrl.getLsbD 0 ∧ t = respond 0#32 { syncClear s with ctrl := ctrlImage d }) := by
  simp only [exec, execWrCtrl, Host.Outcome.next.injEq, eq_comm (a := t), apply_ite (respond 0#32)]
  exact ite_eq_iff

/-- SYNC_RELEASE writes ST, and only in DONE (R137). -/
theorem exec_syncRelease_next {s t : State} :
    exec .syncRelease s = .next t ↔
      (s.st = .done ∧ t = respond 0#32 { s with st := .waitStart }) ∨ (s.st ≠ .done ∧ t = respond 0#32 s) := by
  simp only [exec, execSyncRelease, Host.Outcome.next.injEq, eq_comm (a := t), apply_ite (respond 0#32)]
  exact ite_eq_iff

/-- RD_PAYLOAD reads the byte at RPTR and counts RPTR up, or raises ERR_RANGE (R139). -/
theorem exec_rdPayload_next {s t : State} :
    exec .rdPayload s = .next t ↔
      ((s.st = .done ∧ s.rptr < s.lenr) ∧ s.rptr < s.params.maxLen ∧
        t = respond ((s.pbuf.read s.rptr.toNat).setWidth 32) { s with rptr := s.rptr + 1#32 }) ∨
      (¬ (s.st = .done ∧ s.rptr < s.lenr) ∧ t = respond 0#32 (raise .range s)) := by
  simp only [exec, execRdPayload]
  by_cases hr : s.st = .done ∧ s.rptr < s.lenr
  · by_cases hm : s.rptr < s.params.maxLen
    · simp only [if_pos hr, memRead_ok.2 ⟨hm, rfl⟩, Host.Outcome.next.injEq, eq_comm (a := t)]
      simp [hr, hm]
    · simp only [if_pos hr, memRead_error.2 ⟨hm, rfl⟩]
      simp [hr, hm]
  · simp only [if_neg hr, Host.Outcome.next.injEq, eq_comm (a := t)]
    simp [hr]

/-- Settles O46: the commands with a branch by their inversion lemmas, every other by its one next state. -/
theorem eachItemChangesOnlyUnderItsCommands : Obligations.EachItemChangesOnlyUnderItsCommands := by
  intro i s t h
  cases i
  case syncPush b =>
    obtain ⟨hparams, hinputs, hctrl, hcrc, hxor, herr, hpbuf⟩ := execSyncPush_frame h
    have hread (a : Nat) (ha : ¬ (s.st = .data ∧ a = s.dcnt.toNat)) : t.pbuf.read a = s.pbuf.read a := by
      rw [hpbuf, read_pbufAfterPush b s.pbuf ha]
    simpa [Instr.opcode, hparams, hinputs, hctrl, hcrc, hxor, herr] using hread
  case wrCtrl d =>
    rcases exec_wrCtrl_next.1 h with ⟨hv, rfl⟩ | ⟨hv, rfl⟩
    · simp [Instr.opcode]
    · have hne : d[0] ≠ s.ctrl[0] := hv
      simp [Instr.opcode, hne]
  case syncRelease =>
    rcases exec_syncRelease_next.1 h with ⟨hd, rfl⟩ | ⟨hd, rfl⟩ <;> simp [Instr.opcode, hd]
  case rdPayload =>
    rcases exec_rdPayload_next.1 h with ⟨-, -, rfl⟩ | ⟨-, rfl⟩ <;> simp [Instr.opcode]
  all_goals cases h; simp [Instr.opcode]

/-! ### The interrupt output -/

/-- The two causes of `irq`, each under its enable (R40). -/
theorem irq_iff (s : State) :
    irq s = true ↔ (s.ctrl.getLsbD 1 = true ∧ s.st = .done) ∨ (s.ctrl.getLsbD 2 = true ∧ s.err ≠ 0#7) := by
  simp [irq, frie, errie]

/-- The bits of CTRL that WR_CTRL writes are those of D (R65). -/
@[simp] theorem ctrlImage_getElem (d : Byte) {j : Nat} (hj : j < 3) : (ctrlImage d)[j] = d[j] := by
  simp [ctrlImage, hj, BitVec.getLsbD_eq_getElem (show j < 8 by omega)]

/-- Settles O49: each command's next state put into the two causes. -/
theorem irqFollowsItsCauses : Obligations.IrqFollowsItsCauses := by
  refine ⟨irq_iff, fun s t h => ?_, fun d s t hv h => ?_, fun d s t hm h => ?_, fun d s t hd h => ?_, fun s t h => ?_⟩
  · have hst : t.st ≠ .done ∧ t.ctrl = s.ctrl ∧ t.err = s.err := by
      rcases h with h | h
      · rcases exec_syncRelease_next.1 h with ⟨-, rfl⟩ | ⟨hd, rfl⟩
        · simp
        · exact ⟨hd, rfl, rfl⟩
      · cases h; simp
    obtain ⟨hst, hctrl, herr⟩ := hst
    simp [irq_iff, hst, hctrl, herr]
  · rcases exec_wrCtrl_next.1 h with ⟨hsame, -⟩ | ⟨-, rfl⟩
    · exact absurd hsame hv
    · simp [irq_iff]
  · cases h
    simp [irq_iff, errMask, hm]
  · have hbits : d[1] = false ∧ d[2] = false := by
      have h1 := congrArg (·.getLsbD 0) hd
      have h2 := congrArg (·.getLsbD 1) hd
      exact ⟨by simpa using h1, by simpa using h2⟩
    have hctrl : t.ctrl = ctrlImage d := by
      rcases exec_wrCtrl_next.1 h with ⟨-, rfl⟩ | ⟨-, rfl⟩ <;> rfl
    rw [← Bool.not_eq_true, irq_iff, hctrl]
    simp [hbits]
  · cases h
    rw [← Bool.not_eq_true, irq_iff]
    simp

/-! ### What SYNC_PUSH does not read -/

/-- The state with other values in the items SYNC_PUSH does not read: CTRL, of which it reads VARIANT only, the standalone
accumulators CRC and XOR, and PBUF. -/
def withUnread (k : BitVec 8) (c : Half) (x : Byte) (m : Memory) (s : State) : State :=
  { s with ctrl := k, crc := c, xor := x, pbuf := m }

section
variable (b : Byte) {s : State} {k : BitVec 8} (c : Half) (x : Byte) (m : Memory)

theorem pushWaitStart_withUnread : pushWaitStart b (withUnread k c x m s) = withUnread k c x m (pushWaitStart b s) := by
  simp only [pushWaitStart, apply_ite (withUnread k c x m)]
  rfl

theorem pushToken_withUnread : pushToken b (withUnread k c x m s) = withUnread k c x m (pushToken b s) := by
  simp only [pushToken, apply_ite (withUnread k c x m)]
  rfl

/-- DATA is the one state rule that writes PBUF (R131). -/
theorem pushData_withUnread {u : State} (h : pushData b s = .ok u) :
    pushData b (withUnread k c x m s) = .ok (withUnread k c x (m.write s.dcnt.toNat b) u) := by
  obtain ⟨hm, rfl⟩ := pushData_ok.1 h
  exact pushData_ok.2 ⟨hm, rfl⟩

variable (hk : k.getLsbD 0 = s.ctrl.getLsbD 0)
include hk

theorem variantC_withUnread : variantC (withUnread k c x m s) = variantC s := hk

theorem pushSeq_withUnread : pushSeq b (withUnread k c x m s) = withUnread k c x m (pushSeq b s) := by
  have hv : variantC (acc b (withUnread k c x m s)) = variantC (acc b s) := hk
  simp only [pushSeq, hv]
  rw [apply_ite (withUnread k c x m), apply_ite (withUnread k c x m)]
  rfl

theorem takeLenByte_withUnread : takeLenByte b (withUnread k c x m s) = takeLenByte b s := by
  simp only [takeLenByte, variantC_withUnread c x m hk]; rfl

theorem lastLenByte_withUnread : lastLenByte (withUnread k c x m s) = lastLenByte s := by
  simp only [lastLenByte, variantC_withUnread c x m hk]; rfl

theorem pushSize_withUnread : pushSize b (withUnread k c x m s) = withUnread k c x m (pushSize b s) := by
  have hl : lastLenByte (acc b (withUnread k c x m s)) = lastLenByte s := lastLenByte_withUnread c x m hk
  have ht : takeLenByte b (acc b (withUnread k c x m s)) = takeLenByte b s := takeLenByte_withUnread b c x m hk
  simp only [pushSize, hl, ht]
  rw [apply_ite (withUnread k c x m), apply_ite (withUnread k c x m)]
  rfl

theorem residueZero_withUnread : residueZero (withUnread k c x m s) = residueZero s := by
  simp only [residueZero, variantC_withUnread c x m hk]; rfl

theorem enterDone_withUnread : enterDone (withUnread k c x m s) = withUnread k c x m (enterDone s) := by
  simp only [enterDone, variantC_withUnread c x m hk]; rfl

theorem pushCsum_withUnread : pushCsum b (withUnread k c x m s) = withUnread k c x m (pushCsum b s) := by
  have hv : variantC (acc b (withUnread k c x m s)) = variantC (acc b s) := hk
  have hz : residueZero (acc b (withUnread k c x m s)) = residueZero (acc b s) :=
    residueZero_withUnread (s := acc b s) c x m hk
  have hd := enterDone_withUnread (s := { acc b s with fcnt := 0#2, cksOk := residueZero (acc b s) }) c x m hk
  simp only [pushCsum, hv, hz]
  have hr (u : State) : withUnread k c x m (raise .cksum u) = raise .cksum (withUnread k c x m u) := rfl
  rw [apply_ite (withUnread k c x m), apply_ite (withUnread k c x m), hr, ← hd]
  rfl

/-- SYNC_PUSH does in `withUnread k c x m s` what it does in `s`; those items stay, but for the byte DATA stores. -/
theorem execSyncPush_withUnread {t : State} (h : execSyncPush b s = .next t) :
    execSyncPush b (withUnread k c x m s) = .next (withUnread k c x (pbufAfterPush b s m) t) := by
  have hst : (withUnread k c x m s).st = s.st := rfl
  rcases execSyncPush_next h with
    ⟨hs, rfl⟩ | ⟨hs, rfl⟩ | ⟨hs, rfl⟩ | ⟨hs, rfl⟩ | ⟨hs, u, hu, rfl⟩ | ⟨hs, rfl⟩ | ⟨hs, rfl⟩
  case inr.inr.inr.inr.inl =>
    simp only [execSyncPush, hst, hs, dataByte, pushData_withUnread b c x m hu, pbufAfterPush_of_data hs]
    rfl
  all_goals
    rw [pbufAfterPush_of_not_data (by simp [hs])]
    simp only [execSyncPush, hst, hs, dataByte]
  · rw [pushWaitStart_withUnread]; rfl
  · rw [pushSeq_withUnread b c x m hk]; rfl
  · rw [pushSize_withUnread b c x m hk]; rfl
  · rw [pushToken_withUnread]; rfl
  · rw [pushCsum_withUnread b c x m hk]; rfl
  · rfl

end

/-- A PBUF of content `m` after command `i` in state `s`: only SYNC_PUSH writes it (R50). -/
def pbufAfter : Instr → State → Memory → Memory
  | .syncPush b, s, m => pbufAfterPush b s m
  | _, _, m => m

theorem pbufAfter_of_not_push {i : Instr} (s : State) (m : Memory) (hi : ∀ b, i ≠ .syncPush b) : pbufAfter i s m = m := by
  cases i
  case syncPush b => exact absurd rfl (hi b)
  all_goals rfl

/-- The synchronizer's commands keep CTRL, CRC and XOR, and PBUF is as `pbufAfter` has it. -/
theorem exec_sync_frame {i : Instr} {s t : State} (hop : 0x30#8 ≤ i.opcode) (h : exec i s = .next t) :
    t.ctrl = s.ctrl ∧ t.crc = s.crc ∧ t.xor = s.xor ∧ t.pbuf = pbufAfter i s s.pbuf := by
  cases i
  case syncPush b =>
    obtain ⟨-, -, hctrl, hcrc, hxor, -, hpbuf⟩ := execSyncPush_frame h
    exact ⟨hctrl, hcrc, hxor, hpbuf⟩
  case syncRelease =>
    rcases exec_syncRelease_next.1 h with ⟨-, rfl⟩ | ⟨-, rfl⟩ <;> exact ⟨rfl, rfl, rfl, rfl⟩
  case rdPayload =>
    rcases exec_rdPayload_next.1 h with ⟨-, -, rfl⟩ | ⟨-, rfl⟩ <;> exact ⟨rfl, rfl, rfl, rfl⟩
  case syncReset | rdSeq | rdLen | rptrClr | rdGcnt => cases h; exact ⟨rfl, rfl, rfl, rfl⟩
  all_goals simp [Instr.opcode] at hop

/-- The synchronizer's commands do in `withUnread k c x m s` what they do in `s`, where `m` has the byte RD_PAYLOAD reads. -/
theorem exec_sync_withUnread {i : Instr} {s t : State} {k : BitVec 8} {m : Memory} (hop : 0x30#8 ≤ i.opcode)
    (hk : k.getLsbD 0 = s.ctrl.getLsbD 0) (c : Half) (x : Byte)
    (hread : s.st = .done → s.rptr < s.lenr → m.read s.rptr.toNat = s.pbuf.read s.rptr.toNat) (h : exec i s = .next t) :
    exec i (withUnread k c x m s) = .next (withUnread k c x (pbufAfter i s m) t) := by
  cases i
  case syncPush b => exact execSyncPush_withUnread b c x m hk h
  case syncRelease =>
    refine exec_syncRelease_next.2 ?_
    rcases exec_syncRelease_next.1 h with ⟨hd, rfl⟩ | ⟨hd, rfl⟩
    · exact .inl ⟨hd, rfl⟩
    · exact .inr ⟨hd, rfl⟩
  case rdPayload =>
    refine exec_rdPayload_next.2 ?_
    rcases exec_rdPayload_next.1 h with ⟨⟨hd, hlt⟩, hm, rfl⟩ | ⟨hr, rfl⟩
    · rw [← hread hd hlt]
      exact .inl ⟨⟨hd, hlt⟩, hm, rfl⟩
    · exact .inr ⟨hr, rfl⟩
  case syncReset | rdSeq | rdLen | rptrClr | rdGcnt => cases h; rfl
  all_goals simp [Instr.opcode] at hop

/-- Settles O47: the accumulators are among the items the synchronizer's commands neither read nor write. -/
theorem synchronizerIgnoresTheStandaloneUnits : Obligations.SynchronizerIgnoresTheStandaloneUnits := by
  intro i s t c x hop h
  obtain ⟨hctrl, -, -, hpbuf⟩ := exec_sync_frame hop h
  have ht : withUnread s.ctrl c x (pbufAfter i s s.pbuf) t = { t with crc := c, xor := x } := by
    rw [← hctrl, ← hpbuf]; rfl
  exact (exec_sync_withUnread hop rfl c x (fun _ _ => rfl) h).trans (congrArg _ ht)

/-- Settles O48: the synchronizer reads of CTRL the VARIANT only, and so does WR_CTRL, which writes all of it. -/
theorem enablesOnlyGateTheInterrupt : Obligations.EnablesOnlyGateTheInterrupt := by
  intro i s t k hk hrdCtrl hrdStatus h
  by_cases hop : 0x30#8 ≤ i.opcode
  · obtain ⟨-, hcrc, hxor, hpbuf⟩ := exec_sync_frame hop h
    have hi : i.opcode ∉ [0x01#8, 0x02#8] := by
      intro hmem
      rcases List.mem_pair.1 hmem with e | e <;> exact absurd (e ▸ hop) (by decide)
    have ht : withUnread k s.crc s.xor (pbufAfter i s s.pbuf) t = { t with ctrl := k } := by
      rw [← hcrc, ← hxor, ← hpbuf]; rfl
    rw [if_neg hi]
    exact (exec_sync_withUnread hop hk s.crc s.xor (fun _ _ => rfl) h).trans (congrArg _ ht)
  · cases i
    case rdCtrl => exact absurd rfl hrdCtrl
    case rdStatus => exact absurd rfl hrdStatus
    case wrCtrl d =>
      refine exec_wrCtrl_next.2 ?_
      rcases exec_wrCtrl_next.1 h with ⟨hv, rfl⟩ | ⟨hv, rfl⟩
      · exact .inl ⟨hv.trans hk.symm, rfl⟩
      · exact .inr ⟨fun e => hv (e.trans hk), rfl⟩
    case nop | softReset | clrErr | crcInit | crcByte | crcRd | xorInit | xorByte | xorRd => cases h; rfl
    all_goals simp [Instr.opcode] at hop

/-! ### Bounds on the payload, and that a state within them does not stop -/

/-- The clauses (a) to (d) of R135: the ones on which PBUF accesses rest. They are kept without the others. -/
def PayloadBounds (s : State) : Prop :=
  StInRange s ∧ LengthWithinCeiling s ∧ DataCountBelowLength s ∧ DataCountIsLength s

theorem payloadBounds_of_invariant {s : State} (h : SyncInvariant s) : PayloadBounds s := by
  obtain ⟨hst, hlen, hdata, hcsum, -⟩ := h
  exact ⟨hst, hlen, hdata, hcsum⟩

/-- While no length is taken yet, nothing is bounded. -/
theorem payloadBounds_of_early {s : State} (h : s.st = .waitStart ∨ s.st = .seq ∨ s.st = .size) : PayloadBounds s := by
  rcases h with h | h | h <;> simp [PayloadBounds, StInRange, h, stCode]

/-- The bounds speak of ST, LENR, DCNT and MAX_LEN only. -/
theorem PayloadBounds.congr {s t : State} (h : PayloadBounds s) (hst : t.st = s.st) (hlenr : t.lenr = s.lenr)
    (hdcnt : t.dcnt = s.dcnt) (hparams : t.params = s.params) : PayloadBounds t := by
  simpa only [PayloadBounds, StInRange, LengthWithinCeiling, DataCountBelowLength, DataCountIsLength, hst, hlenr, hdcnt,
    hparams] using h

/-- In TOKEN: a payload that is not empty is taken from DCNT = 0 on (R130). -/
theorem pushToken_keeps_payloadBounds (b : Byte) {s : State} (h : PayloadBounds s) (hs : s.st = .token) :
    PayloadBounds (pushToken b s) := by
  obtain ⟨-, hlen, -, -⟩ := h
  have hle := hlen (.inl hs)
  rcases pushToken_cases b s with ⟨-, e⟩ | ⟨-, e⟩
  · rw [e]
    by_cases hl : s.lenr = 0#32
    · simpa [PayloadBounds, StInRange, stCode, hl] using hle
    · have hpos : 0#32 < s.lenr := by bv_omega
      simpa [PayloadBounds, StInRange, stCode, hl, hpos] using hle
  · exact payloadBounds_of_early (.inl (by rw [e]))

/-- In DATA: DCNT counts up to LENR, where the payload ends (R131). -/
theorem pushData_keeps_payloadBounds {b : Byte} {s t : State} (h : PayloadBounds s) (hs : s.st = .data)
    (ht : pushData b s = .ok t) : PayloadBounds t := by
  obtain ⟨-, hlen, hdata, -⟩ := h
  have hle := hlen (.inr (.inl hs))
  have hlt := hdata hs
  obtain ⟨-, rfl⟩ := pushData_ok.1 ht
  by_cases hl : s.dcnt + 1#32 = s.lenr
  · simpa [PayloadBounds, StInRange, stCode, hl] using hle
  · have hnext : s.dcnt + 1#32 < s.lenr := by bv_omega
    simpa [PayloadBounds, StInRange, stCode, hl, hs, hnext] using hle

theorem pushSize_keeps_payloadBounds (b : Byte) {s : State} (hs : s.st = .size) : PayloadBounds (pushSize b s) := by
  rcases pushSize_cases b s with ⟨-, e⟩ | ⟨-, hle, e⟩ | ⟨-, -, e⟩
  · exact payloadBounds_of_early (.inr (.inr (by rw [e]; exact hs)))
  · rw [e]; simpa [PayloadBounds, StInRange, stCode] using hle
  · exact payloadBounds_of_early (.inl (by rw [e]))

/-- From CSUM to DONE the count stays at the length (R132). -/
theorem pushCsum_keeps_payloadBounds (b : Byte) {s : State} (h : PayloadBounds s) (hs : s.st = .csum) :
    PayloadBounds (pushCsum b s) := by
  obtain ⟨-, hlen, -, hcount⟩ := h
  have hle := hlen (.inr (.inr (.inl hs)))
  have heq := hcount (.inl hs)
  rcases pushCsum_cases b s with ⟨-, -, e⟩ | ⟨-, -, e⟩ | ⟨-, -, e⟩ <;> rw [e] <;>
    simpa [PayloadBounds, StInRange, stCode, hs, heq] using hle

theorem execSyncPush_keeps_payloadBounds {b : Byte} {s t : State} (h : PayloadBounds s) (e : execSyncPush b s = .next t) :
    PayloadBounds t := by
  have respond_keeps {u : State} (hu : PayloadBounds u) : PayloadBounds (respond 0#32 u) := hu.congr rfl rfl rfl rfl
  rcases execSyncPush_next e with
    ⟨hs, rfl⟩ | ⟨hs, rfl⟩ | ⟨hs, rfl⟩ | ⟨hs, rfl⟩ | ⟨hs, u, hu, rfl⟩ | ⟨hs, rfl⟩ | ⟨hs, rfl⟩ <;> apply respond_keeps
  · rcases pushWaitStart_cases b s with ⟨-, e⟩ | ⟨-, -, -, e⟩ | ⟨-, -, e⟩ <;>
      exact payloadBounds_of_early (by simp [e, hs])
  · rcases pushSeq_cases b s with ⟨-, e⟩ | ⟨-, -, e⟩ | ⟨-, -, e⟩ <;>
      exact payloadBounds_of_early (by simp [e, hs])
  · exact pushSize_keeps_payloadBounds b hs
  · exact pushToken_keeps_payloadBounds b h hs
  · exact pushData_keeps_payloadBounds h hs hu
  · exact pushCsum_keeps_payloadBounds b h hs
  · exact h.congr rfl rfl rfl rfl

/-- A command other than SYNC_PUSH drops the frame, or leaves ST, LENR and DCNT as they are. -/
theorem exec_keeps_or_drops_frame {i : Instr} {s t : State} (hi : ∀ b, i ≠ .syncPush b) (e : exec i s = .next t) :
    t.st = .waitStart ∨ (t.st = s.st ∧ t.lenr = s.lenr ∧ t.dcnt = s.dcnt ∧ t.params = s.params) := by
  cases i
  case syncPush b => exact absurd rfl (hi b)
  case wrCtrl d =>
    rcases exec_wrCtrl_next.1 e with ⟨-, rfl⟩ | ⟨-, rfl⟩
    · exact .inr ⟨rfl, rfl, rfl, rfl⟩
    · exact .inl rfl
  case syncRelease =>
    rcases exec_syncRelease_next.1 e with ⟨-, rfl⟩ | ⟨-, rfl⟩
    · exact .inl rfl
    · exact .inr ⟨rfl, rfl, rfl, rfl⟩
  case rdPayload =>
    rcases exec_rdPayload_next.1 e with ⟨-, -, rfl⟩ | ⟨-, rfl⟩ <;> exact .inr ⟨rfl, rfl, rfl, rfl⟩
  case softReset | syncReset => cases e; exact .inl rfl
  all_goals cases e; exact .inr ⟨rfl, rfl, rfl, rfl⟩

theorem exec_keeps_payloadBounds {i : Instr} {s t : State} (h : PayloadBounds s) (e : exec i s = .next t) :
    PayloadBounds t := by
  by_cases hi : ∃ b, i = .syncPush b
  · obtain ⟨b, rfl⟩ := hi
    exact execSyncPush_keeps_payloadBounds h e
  · rcases exec_keeps_or_drops_frame (not_exists.1 hi) e with hw | ⟨hst, hlenr, hdcnt, hparams⟩
    · exact payloadBounds_of_early (.inl hw)
    · exact h.congr hst hlenr hdcnt hparams

/-- Within the bounds every command has a next state. -/
theorem exec_next_of_payloadBounds (i : Instr) {s : State} (h : PayloadBounds s) : ∃ t, exec i s = .next t := by
  obtain ⟨hst, hlen, hdata, -⟩ := h
  cases i
  case syncPush b =>
    cases hs : s.st
    case data =>
      have hm : s.dcnt < s.params.maxLen := Nat.lt_of_lt_of_le (hdata hs) (hlen (.inr (.inl hs)))
      exact ⟨_, by simp only [exec, execSyncPush, hs, dataByte, pushData_ok.2 ⟨hm, rfl⟩]; rfl⟩
    case unused => simp [StInRange, hs, stCode] at hst
    all_goals exact ⟨_, by simp only [exec, execSyncPush, hs]; rfl⟩
  case rdPayload =>
    by_cases hr : s.st = .done ∧ s.rptr < s.lenr
    · have hm : s.rptr < s.params.maxLen := Nat.lt_of_lt_of_le hr.2 (hlen (.inr (.inr (.inr hr.1))))
      exact ⟨_, exec_rdPayload_next.2 (.inl ⟨hr, hm, rfl⟩)⟩
    · exact ⟨_, exec_rdPayload_next.2 (.inr ⟨hr, rfl⟩)⟩
  all_goals exact ⟨_, rfl⟩

/-! ### No command shows what PBUF held -/

/-- The PBUF content `m` agrees with that of `s` on the payload bytes of the current frame stored so far. -/
def PayloadAgrees (s : State) (m : Memory) : Prop :=
  (s.st = .data ∨ s.st = .csum ∨ s.st = .done) → ∀ a < s.dcnt.toNat, m.read a = s.pbuf.read a

/-- DATA stores the pushed byte in both contents; every other rule of SYNC_PUSH keeps the bytes stored, or starts with none. -/
theorem execSyncPush_keeps_payloadAgrees {b : Byte} {s t : State} {m : Memory} (ha : PayloadAgrees s m)
    (h : execSyncPush b s = .next t) : PayloadAgrees t (pbufAfterPush b s m) := by
  intro ht a hlt
  rcases execSyncPush_next h with
    ⟨hs, rfl⟩ | ⟨hs, rfl⟩ | ⟨hs, rfl⟩ | ⟨hs, rfl⟩ | ⟨hs, u, hu, rfl⟩ | ⟨hs, rfl⟩ | ⟨hs, rfl⟩
  · rcases pushWaitStart_cases b s with ⟨-, e⟩ | ⟨-, -, -, e⟩ | ⟨-, -, e⟩ <;> simp [e, hs] at ht
  · rcases pushSeq_cases b s with ⟨-, e⟩ | ⟨-, -, e⟩ | ⟨-, -, e⟩ <;> simp [e, hs] at ht
  · rcases pushSize_cases b s with ⟨-, e⟩ | ⟨-, -, e⟩ | ⟨-, -, e⟩ <;> simp [e, hs] at ht
  · rcases pushToken_cases b s with ⟨-, e⟩ | ⟨-, e⟩
    · simp [e] at hlt
    · simp [e] at ht
  · obtain ⟨-, rfl⟩ := pushData_ok.1 hu
    rw [pbufAfterPush_of_data hs]
    simp only [respond_pbuf, respond_dcnt, Memory.read_write] at hlt ⊢
    split
    · rfl
    · exact ha (.inl hs) a (by bv_omega)
  · rw [pbufAfterPush_of_not_data (by simp [hs])]
    rcases pushCsum_cases b s with ⟨-, -, e⟩ | ⟨-, -, e⟩ | ⟨-, -, e⟩ <;> simp only [e] at hlt ⊢ <;>
      exact ha (.inr (.inl hs)) a hlt
  · rw [pbufAfterPush_of_not_data (by simp [hs])]
    exact ha (.inr (.inr hs)) a hlt

/-- Every command keeps the agreement on the payload. -/
theorem exec_keeps_payloadAgrees {i : Instr} {s t : State} {m : Memory} (ha : PayloadAgrees s m) (h : exec i s = .next t) :
    PayloadAgrees t (pbufAfter i s m) := by
  by_cases hi : ∃ b, i = .syncPush b
  · obtain ⟨b, rfl⟩ := hi
    exact execSyncPush_keeps_payloadAgrees ha h
  · intro ht a hlt
    obtain ⟨hst, hpbuf, hdcnt⟩ := exec_keeps_payload (not_exists.1 hi) h ht
    rw [hpbuf, pbufAfter_of_not_push s m (not_exists.1 hi)]
    exact ha (hst ▸ ht) a (hdcnt ▸ hlt)

/-- A command run with another content of PBUF that agrees on the payload does the same and answers the same. -/
theorem exec_of_payloadAgrees {i : Instr} {s t : State} {m : Memory} (hb : PayloadBounds s) (ha : PayloadAgrees s m)
    (h : exec i s = .next t) : exec i { s with pbuf := m } = .next { t with pbuf := pbufAfter i s m } := by
  by_cases hop : 0x30#8 ≤ i.opcode
  · obtain ⟨hctrl, hcrc, hxor, -⟩ := exec_sync_frame hop h
    have hread (hdone : s.st = .done) (hlt : s.rptr < s.lenr) : m.read s.rptr.toNat = s.pbuf.read s.rptr.toNat := by
      obtain ⟨-, -, -, hcount⟩ := hb
      exact ha (.inr (.inr hdone)) _ (by rw [hcount (.inr hdone)]; exact hlt)
    have ht : withUnread s.ctrl s.crc s.xor (pbufAfter i s m) t = { t with pbuf := pbufAfter i s m } := by
      rw [← hctrl, ← hcrc, ← hxor]; rfl
    exact (exec_sync_withUnread hop rfl s.crc s.xor hread h).trans (congrArg _ ht)
  · cases i
    case wrCtrl d =>
      refine exec_wrCtrl_next.2 ?_
      rcases exec_wrCtrl_next.1 h with ⟨hv, rfl⟩ | ⟨hv, rfl⟩
      · exact .inl ⟨hv, rfl⟩
      · exact .inr ⟨hv, rfl⟩
    case nop | softReset | rdCtrl | rdStatus | clrErr | crcInit | crcByte | crcRd | xorInit | xorByte | xorRd =>
      cases h; rfl
    all_goals simp [Instr.opcode] at hop

/-- One issued word, legal or not, from two states that differ in PBUF outside the payload. -/
theorem issue_of_payloadAgrees (w : Half) {s : State} {m : Memory} (hb : PayloadBounds s) (ha : PayloadAgrees s m) :
    ∃ t m', issue w s = .next t ∧ issue w { s with pbuf := m } = .next { t with pbuf := m' } ∧
      PayloadBounds t ∧ PayloadAgrees t m' := by
  simp only [issue_eq]
  cases hd : decode w with
  | some i =>
    obtain ⟨t, ht⟩ := exec_next_of_payloadBounds i hb
    exact ⟨t, pbufAfter i s m, by rw [execWord_some hd, ht], by rw [execWord_some hd, exec_of_payloadAgrees hb ha ht],
      exec_keeps_payloadBounds hb ht, exec_keeps_payloadAgrees ha ht⟩
  | none =>
    exact ⟨illegalCommand s, m, execWord_none hd s, execWord_none hd _, hb.congr rfl rfl rfl rfl, ha⟩

/-- A run, by induction over its words. -/
theorem issueAll_of_payloadAgrees (ws : List Half) {s : State} {m : Memory} (hb : PayloadBounds s) (ha : PayloadAgrees s m) :
    ∃ t m', issueAll ws s = .next t ∧ issueAll ws { s with pbuf := m } = .next { t with pbuf := m' } := by
  induction ws generalizing s m with
  | nil => exact ⟨s, m, rfl, rfl⟩
  | cons w ws ih =>
    obtain ⟨u, k, hu, hk, hb', ha'⟩ := issue_of_payloadAgrees w hb ha
    rw [issueAll_cons_next hu, issueAll_cons_next hk]
    exact ih hb' ha'

/-- Settles O50: after reset no frame is held, so every content of PBUF agrees with every other on the payload. -/
theorem pbufAtResetIsUnobservable : Obligations.PbufAtResetIsUnobservable := by
  intro p m m' q r ws
  exact issueAll_of_payloadAgrees ws (s := { State.powerOn p with pbuf := m, inputs := q, resps := r }) (m := m')
    (payloadBounds_of_early (.inl rfl)) fun h => by simp [State.powerOn] at h

end Sys2Proof.Machine
end

section
/-! PROOFS. The statements about encoding (spec/30_encoding.md): the opcode map, the response word, the assembler, and the frames
of variants A and C through the synchronizer. -/

namespace Sys2Proof.Machine

/-! ### The opcode map -/

/-- A word is its two fields (R63). -/
theorem append_fields (w : Half) : opcField w ++ dField w = w := by
  ext j hj
  simp only [BitVec.getElem_append, opcField, dField, BitVec.getElem_extractLsb']
  split
  · simp [BitVec.getLsbD_eq_getElem hj]
  · rw [show 8 + (j - 8) = j by omega, BitVec.getLsbD_eq_getElem hj]

/-- The opcode map, read from left to right: which opcode and data byte give a command (R65, R67). -/
theorem decodeFields_eq_some {opc d : Byte} {i : Instr} :
    decodeFields opc d = some i ↔ opc = i.opcode ∧ (i.takesD = true → d = i.operand) := by
  constructor
  · intro h
    unfold decodeFields at h
    split at h
    case h_21 => cases h
    all_goals
      rename_i hopc
      cases h
      exact ⟨BitVec.eq_of_toNat_eq hopc, by simp [Instr.takesD, Instr.operand]⟩
  · rintro ⟨rfl, hd⟩
    cases i
    case wrCtrl | clrErr | crcByte | xorByte | syncPush => cases hd rfl; rfl
    all_goals rfl

theorem decode_encode (i : Instr) : decode (encode i) = some i := by
  obtain ⟨hopc, hd⟩ := Laws.fields_append i.opcode i.operand
  exact decodeFields_eq_some.2 ⟨hopc, fun _ => hd⟩

/-- A command that takes no D has the operand 0x00 (R70). -/
theorem operand_of_not_takesD {i : Instr} (h : i.takesD = false) : i.operand = 0x00#8 := by
  cases i
  case wrCtrl | clrErr | crcByte | xorByte | syncPush => cases h
  all_goals rfl

/-- Settles O1: both directions are the opcode map. -/
theorem decodeAndEncodeAgree : Obligations.DecodeAndEncodeAgree := by
  refine ⟨decode_encode, fun w i h => ?_⟩
  obtain ⟨hopc, hd⟩ := decodeFields_eq_some.1 h
  refine ⟨hopc, fun ht => ⟨hd ht, ?_⟩, fun ht => ?_⟩
  · rw [encode, ← hopc, ← hd ht, append_fields]
  · rw [encode, ← hopc, operand_of_not_takesD ht]

/-- Settles O3: by the opcode map D has no part where it is not taken; WR_CTRL and CLR_ERR go through their bit fields. -/
theorem ignoredBitsOfDHaveNoEffect : Obligations.IgnoredBitsOfDHaveNoEffect := by
  refine ⟨fun opc d d' i h ht => ?_, fun d d' s h => ?_, fun d d' s h => ?_⟩
  · obtain ⟨hopc, -⟩ := decodeFields_eq_some.1 h
    exact decodeFields_eq_some.2 ⟨hopc, fun ht' => by simp [ht] at ht'⟩
  · have himage : ctrlImage d = ctrlImage d' := congrArg (·.setWidth 8) h
    have hbit : d.getLsbD 0 = d'.getLsbD 0 := by simpa using congrArg (·.getLsbD 0) h
    simp only [exec, execWrCtrl, himage, hbit]
  · have hmask : errMask d = errMask d' := h
    simp only [exec, execClrErr, hmask]

/-- The opcodes the map does not list: four ranges (R68). -/
theorem decodeFields_eq_none {opc d : Byte} :
    decodeFields opc d = none ↔
      (0x06 ≤ opc.toNat ∧ opc.toNat ≤ 0x0F) ∨ (0x13 ≤ opc.toNat ∧ opc.toNat ≤ 0x1F) ∨
      (0x23 ≤ opc.toNat ∧ opc.toNat ≤ 0x2F) ∨ (0x38 ≤ opc.toNat ∧ opc.toNat ≤ 0xFF) := by
  unfold decodeFields
  split
  case h_21 => simp only [imp_false] at *; have := opc.isLt; simp only [true_iff]; omega
  all_goals simp only [reduceCtorEq, false_iff]; omega

/-- Settles O2: the ranges by the opcode map, their number by counting, the effect by the rule of R157. -/
theorem illegalOpcodesAndTheirEffect : Obligations.IllegalOpcodesAndTheirEffect := by
  refine ⟨fun w => decodeFields_eq_none, by decide +kernel, fun w s rest hdec hin => ?_⟩
  rw [step_command hin, execWord_none hdec]
  rfl

/-- Settles O4: each word is decoded by evaluation. -/
theorem wordsOfTheOpcodeMapDecode : Obligations.WordsOfTheOpcodeMapDecode := by
  unfold Obligations.WordsOfTheOpcodeMapDecode
  decide

/-! ### One response per command -/

/-- SYNC_PUSH answers one word, 0. -/
theorem execSyncPush_resps {b : Byte} {s t : State} (h : execSyncPush b s = .next t) : t.resps = s.resps ++ [0#32] := by
  rcases execSyncPush_next h with
    ⟨-, rfl⟩ | ⟨-, rfl⟩ | ⟨-, rfl⟩ | ⟨-, rfl⟩ | ⟨-, u, hu, rfl⟩ | ⟨-, rfl⟩ | ⟨-, rfl⟩
  · rcases pushWaitStart_cases b s with ⟨-, e⟩ | ⟨-, -, -, e⟩ | ⟨-, -, e⟩ <;> simp [e]
  · rcases pushSeq_cases b s with ⟨-, e⟩ | ⟨-, -, e⟩ | ⟨-, -, e⟩ <;> simp [e]
  · rcases pushSize_cases b s with ⟨-, e⟩ | ⟨-, -, e⟩ | ⟨-, -, e⟩ <;> simp [e]
  · rcases pushToken_cases b s with ⟨-, e⟩ | ⟨-, e⟩ <;> simp [e]
  · obtain ⟨-, rfl⟩ := pushData_ok.1 hu
    simp
  · rcases pushCsum_cases b s with ⟨-, -, e⟩ | ⟨-, -, e⟩ | ⟨-, -, e⟩ <;> simp [e]
  · simp

/-- Every command answers one word, and 0 when it is no read command (R64). -/
theorem exec_resps {i : Instr} {s t : State} (h : exec i s = .next t) :
    ∃ v : Word, t.resps = s.resps ++ [v] ∧ (isReadCommand i = false → v = 0#32) := by
  cases i
  case syncPush b => exact ⟨0#32, execSyncPush_resps h, fun _ => rfl⟩
  case wrCtrl d => rcases exec_wrCtrl_next.1 h with ⟨-, rfl⟩ | ⟨-, rfl⟩ <;> exact ⟨0#32, rfl, fun _ => rfl⟩
  case syncRelease => rcases exec_syncRelease_next.1 h with ⟨-, rfl⟩ | ⟨-, rfl⟩ <;> exact ⟨0#32, rfl, fun _ => rfl⟩
  case rdPayload => rcases exec_rdPayload_next.1 h with ⟨-, -, rfl⟩ | ⟨-, rfl⟩ <;> exact ⟨_, rfl, nofun⟩
  case rdCtrl | rdStatus | crcRd | xorRd | rdSeq | rdLen | rdGcnt => cases h; exact ⟨_, rfl, nofun⟩
  all_goals cases h; exact ⟨0#32, rfl, fun _ => rfl⟩

/-- Settles O44: a legal word by the command it decodes to, an illegal one by R157. -/
theorem oneResponsePerCommand : Obligations.OneResponsePerCommand := by
  intro w s t h
  rw [issue_eq] at h
  cases hd : decode w with
  | some i =>
    rw [execWord_some hd] at h
    obtain ⟨v, hv, hz⟩ := exec_resps h
    exact ⟨v, hv, fun hread => hz (hread i rfl)⟩
  | none =>
    rw [execWord_none hd] at h
    cases h
    exact ⟨0#32, rfl, fun _ => rfl⟩

/-! ### The assembler -/

/-- A character that ends no token and starts no comment. -/
abbrev IsPlain (c : Char) : Prop := c ≠ ' ' ∧ c ≠ '\t' ∧ c ≠ ',' ∧ c ≠ ';'

theorem IsPlain.ne_semicolon {c : Char} (h : IsPlain c) : c ≠ ';' := by
  obtain ⟨-, -, -, hsemi⟩ := h
  exact hsemi

/-- Plain characters are collected into the current word. -/
theorem tokensFrom_plain {cs : List Char} (h : ∀ c ∈ cs, IsPlain c) (cur rest : List Char) :
    tokensFrom cur (cs ++ rest) = tokensFrom (cs.reverse ++ cur) rest := by
  induction cs generalizing cur with
  | nil => rfl
  | cons c cs ih =>
    obtain ⟨hblank, htab, hcomma, -⟩ := h c (List.mem_cons_self ..)
    simp [tokensFrom, hblank, htab, hcomma, ih fun d hd => h d (List.mem_cons_of_mem _ hd)]

/-- The comment is cut off at its `;` and nothing before it. -/
theorem stripComment_append {cs : List Char} (h : ∀ c ∈ cs, c ≠ ';') (rest : List Char) :
    stripComment (cs ++ rest) = cs ++ stripComment rest := by
  induction cs with
  | nil => rfl
  | cons c cs ih =>
    simp [stripComment, h c (List.mem_cons_self ..), ih fun d hd => h d (List.mem_cons_of_mem _ hd)]

/-- A digit is plain and has its value. -/
theorem hexDigit_spec {n : Nat} (h : n < 16) : IsPlain (hexDigit n) ∧ hexValue (hexDigit n) = some n := by
  interval_cases n <;> decide

theorem renderImm_plain (b : Byte) : ∀ c ∈ renderImm b, IsPlain c := by
  have hb := b.isLt
  have hhigh := (hexDigit_spec (n := b.toNat / 16) (by omega)).1
  have hlow := (hexDigit_spec (n := b.toNat % 16) (by omega)).1
  simpa [renderImm, IsPlain] using And.intro hhigh hlow

/-- `imm8` is read back as it was written. -/
theorem parseImm_renderImm (b : Byte) : parseImm (renderImm b) = some b := by
  have hb := b.isLt
  have hhigh := (hexDigit_spec (n := b.toNat / 16) (by omega)).2
  have hlow := (hexDigit_spec (n := b.toNat % 16) (by omega)).2
  simp [renderImm, parseImm, hhigh, hlow, Nat.div_add_mod]

theorem mnemonic_plain (i : Instr) : ∀ c ∈ (mnemonic i).toList, IsPlain c := by
  cases i <;> simp [mnemonic, IsPlain]

theorem flushToken_reverse {cs : List Char} (h : cs ≠ []) : flushToken cs.reverse = [cs] := by
  unfold flushToken
  split
  · rename_i hnil
    exact absurd (List.reverse_eq_nil_iff.1 hnil) h
  · rw [List.reverse_reverse]

/-- A word of plain characters is one token, up to the end of the line or the blank after it. -/
theorem tokensFrom_word {cs : List Char} (h : ∀ c ∈ cs, IsPlain c) (hne : cs ≠ []) :
    tokensFrom [] cs = [cs] ∧ ∀ rest, tokensFrom [] (cs ++ ' ' :: rest) = cs :: tokensFrom [] rest := by
  have hflush : flushToken (cs.reverse ++ []) = [cs] := by rw [List.append_nil, flushToken_reverse hne]
  refine ⟨?_, fun rest => ?_⟩
  · have := tokensFrom_plain h [] []
    rwa [List.append_nil, tokensFrom, hflush] at this
  · rw [tokensFrom_plain h, tokensFrom, if_pos (by decide), hflush]
    rfl

/-- The operands a command is written with (R70). -/
def operands (i : Instr) : List Byte := if i.takesD then [i.operand] else []

/-- A mnemonic with its operand stands for its command (R67). -/
theorem commandsOf_mnemonic (i : Instr) : commandsOf (mnemonic i) (operands i) = some [i] := by
  cases i <;> rfl

theorem parseImms_operands (i : Instr) : parseImms ((operands i).map renderImm) = some (operands i) := by
  unfold operands
  split
  · simp [parseImms, parseImm_renderImm]
  · rfl

/-- The tokens of a command's line are its mnemonic and its operand, also with a blank at the end. -/
theorem tokensFrom_render (i : Instr) :
    tokensFrom [] (render i) = (mnemonic i).toList :: (operands i).map renderImm ∧
    tokensFrom [] (render i ++ [' ']) = (mnemonic i).toList :: (operands i).map renderImm := by
  obtain ⟨hm, hmBlank⟩ := tokensFrom_word (mnemonic_plain i) (by cases i <;> simp [mnemonic])
  obtain ⟨ho, hoBlank⟩ := tokensFrom_word (renderImm_plain i.operand) (by simp [renderImm])
  unfold render operands
  split
  · rw [List.append_assoc, List.cons_append, hmBlank, hmBlank, ho, hoBlank []]
    exact ⟨rfl, rfl⟩
  · rw [hm, hmBlank []]
    exact ⟨rfl, rfl⟩

theorem render_no_comment (i : Instr) : ∀ c ∈ render i, c ≠ ';' := by
  have himm (c : Char) (hc : c ∈ renderImm i.operand) : c ≠ ';' := (renderImm_plain _ c hc).ne_semicolon
  have hm (c : Char) (hc : c ∈ (mnemonic i).toList) : c ≠ ';' := (mnemonic_plain i c hc).ne_semicolon
  unfold render
  split
  · intro c hc
    rcases List.mem_append.1 hc with hc | hc
    · exact hm c hc
    · rcases List.mem_cons.1 hc with rfl | hc
      · decide
      · exact himm c hc
  · exact hm

theorem assembleLine_of_tokens {line : List Char} {i : Instr}
    (h : tokensFrom [] (stripComment line) = (mnemonic i).toList :: (operands i).map renderImm) :
    assembleLine line = some [encode i] := by
  simp [assembleLine, h, parseImms_operands, commandsOf_mnemonic, words]

/-- Settles O59: a command's line has its mnemonic and its operand as tokens; a block is encoded byte by byte. -/
theorem assemblyGivesTheWords : Obligations.AssemblyGivesTheWords := by
  refine ⟨fun i comment => ⟨?_, ?_⟩, fun bs => ⟨?_, ?_, ?_⟩, by decide, by decide, by decide⟩
  · have hs : stripComment (render i) = render i := by simpa [stripComment] using stripComment_append (render_no_comment i) []
    exact assembleLine_of_tokens (by rw [hs]; exact (tokensFrom_render i).1)
  · have hs : stripComment (render i ++ ' ' :: ';' :: comment) = render i ++ [' '] := by
      rw [stripComment_append (render_no_comment i)]; simp [stripComment]
    exact assembleLine_of_tokens (by rw [hs]; exact (tokensFrom_render i).2)
  all_goals simp [words, expand, encode, Instr.opcode, Instr.operand]

/-! ### Pushing a byte string -/

/-- A byte string goes on from the state its first byte leaves. -/
theorem pushAll_cons {b : Byte} {m : List Byte} {s t : State} {r : Host.Outcome State Fault Refusal}
    (h : execSyncPush b s = .next t) (hr : pushAll m t = r) : pushAll (b :: m) s = r := by
  have hissue : issue (encode (.syncPush b)) s = .next t := by
    rw [issue_eq, execWord_some (decode_encode _)]
    exact h
  exact (issueAll_cons_next hissue).trans hr

theorem pushAll_one {b : Byte} {s t : State} (h : execSyncPush b s = .next t) : pushAll [b] s = .next t :=
  pushAll_cons h rfl

/-- A byte string in two parts. -/
theorem pushAll_append {m m' : List Byte} {s t : State} {r : Host.Outcome State Fault Refusal}
    (h : pushAll m s = .next t) (hr : pushAll m' t = r) : pushAll (m ++ m') s = r := by
  subst hr
  unfold pushAll at h ⊢
  rw [expand, words, List.map_append, List.map_append]
  exact issueAll_append_next h

/-- What every byte of a frame does besides its place in the frame: both residues take it (R117), and it is answered 0. -/
def taken (m : List Byte) (s : State) : State :=
  { s with
    rcrc := crcFold s.params.crcPolyR s.rcrc m
    rxor := m.foldl (fun x b => x ^^^ b) s.rxor
    resps := s.resps ++ zeros m.length }

theorem taken_append (m m' : List Byte) (s : State) : taken (m ++ m') s = taken m' (taken m s) := by
  simp [taken, zeros]

theorem taken_cons (b : Byte) (m : List Byte) (s : State) : taken (b :: m) s = taken m (taken [b] s) :=
  taken_append [b] m s

/-! ### A value from its bytes -/

/-- Byte `k` of `v` put into `u`, bit by bit. -/
theorem setByte_byteOf_getLsbD {m n : Nat} (k : Nat) (v : BitVec m) (u : BitVec n) {i : Nat} (hi : i < n) :
    (setByte k (byteOf k v) u).getLsbD i = if 8 * k ≤ i ∧ i < 8 * k + 8 then v.getLsbD i else u.getLsbD i := by
  rw [setByte_getLsbD]
  by_cases h : 8 * k ≤ i ∧ i < 8 * k + 8
  · simp [h, hi, byteOf, show i - 8 * k < 8 by omega, show 8 * k + (i - 8 * k) = i by omega]
  · simp [h, hi]

theorem half_of_bytes (v u : Half) : setByte 1 (byteOf 1 v) (setByte 0 (byteOf 0 v) u) = v := by
  refine BitVec.eq_of_getLsbD_eq fun i hi => ?_
  simp only [setByte_byteOf_getLsbD _ _ _ hi]
  split_ifs
  case neg => omega
  all_goals rfl

theorem word_of_bytes (v u : Word) :
    setByte 3 (byteOf 3 v) (setByte 2 (byteOf 2 v) (setByte 1 (byteOf 1 v) (setByte 0 (byteOf 0 v) u))) = v := by
  refine BitVec.eq_of_getLsbD_eq fun i hi => ?_
  simp only [setByte_byteOf_getLsbD _ _ _ hi]
  split_ifs
  case neg => omega
  all_goals rfl

theorem word_of_half (v : Half) : setByte 0 (byteOf 0 v) (setByte 1 (byteOf 1 v) 0#32) = v.setWidth 32 := by
  refine BitVec.eq_of_getLsbD_eq fun i hi => ?_
  simp only [setByte_byteOf_getLsbD _ _ _ hi, BitVec.getLsbD_setWidth, hi, decide_true, Bool.true_and, BitVec.getLsbD_zero]
  split_ifs
  · rfl
  · rfl
  · exact (BitVec.getLsbD_of_ge v i (by omega)).symm

/-! ### The fields of a frame -/

theorem execSyncPush_of_seq {s : State} (hst : s.st = .seq) (b : Byte) :
    execSyncPush b s = .next (respond 0#32 (pushSeq b s)) := by
  simp [execSyncPush, hst, dataByte]

theorem execSyncPush_of_size {s : State} (hst : s.st = .size) (b : Byte) :
    execSyncPush b s = .next (respond 0#32 (pushSize b s)) := by
  simp [execSyncPush, hst, dataByte]

theorem execSyncPush_of_csum {s : State} (hst : s.st = .csum) (b : Byte) :
    execSyncPush b s = .next (respond 0#32 (pushCsum b s)) := by
  simp [execSyncPush, hst, dataByte]

/-- The state in which a frame's residues, fields and bits are as R127 starts them, before the START byte is taken. -/
def opened (s : State) : State :=
  { s with
    seqr := 0x0000#16, lenr := 0#32, fcnt := 0#2, dcnt := 0#32, cksOk := false, isEvt := false, gcnt := 0#32
    rcrc := s.params.crcSeed, rxor := 0x00#8, st := .seq }

theorem execSyncPush_start {s : State} (hst : s.st = .waitStart) :
    execSyncPush startByte s = .next (taken [startByte] (opened s)) := by
  rcases pushWaitStart_cases startByte s with ⟨-, e⟩ | ⟨hne, -⟩ | ⟨hne, -⟩
  · simp only [execSyncPush, hst, dataByte, e]
    rfl
  all_goals exact absurd rfl hne

/-- The bytes `bs` are a sequence field of value `q` in the variant `c`. -/
def IsSeqField (c : Bool) (bs : List Byte) (q : Half) : Prop :=
  ∀ s : State, variantC s = c → s.st = .seq → s.fcnt = 0#2 →
    pushAll bs s = .next { taken bs s with seqr := q, fcnt := 0#2, st := .size }

/-- The bytes `bs` are a length field of value `n` in the variant `c`. -/
def IsLenField (c : Bool) (bs : List Byte) (n : Word) : Prop :=
  ∀ s : State, variantC s = c → s.st = .size → s.fcnt = 0#2 → s.lenr = 0#32 → n ≤ s.params.maxLen →
    pushAll bs s = .next { taken bs s with lenr := n, fcnt := 0#2, st := .token }

/-- The first sequence byte of variant A (R128). -/
theorem execSyncPush_seq_first {s : State} (hst : s.st = .seq) (hv : variantC s = false) (hf : s.fcnt = 0#2) (b : Byte) :
    execSyncPush b s = .next { taken [b] s with seqr := setByte 0 b s.seqr, fcnt := 1#2 } := by
  rw [execSyncPush_of_seq hst]
  rcases pushSeq_cases b s with ⟨hv', -⟩ | ⟨-, -, e⟩ | ⟨-, hf', -⟩
  · simp [hv] at hv'
  · rw [e]; rfl
  · exact absurd hf hf'

/-- The second sequence byte of variant A (R128). -/
theorem execSyncPush_seq_second {s : State} {b : Byte} {q : Half} (hst : s.st = .seq) (hv : variantC s = false)
    (hf : s.fcnt ≠ 0#2) (hq : setByte 1 b s.seqr = q) :
    execSyncPush b s = .next { taken [b] s with seqr := q, fcnt := 0#2, st := .size } := by
  rw [execSyncPush_of_seq hst]
  rcases pushSeq_cases b s with ⟨hv', -⟩ | ⟨-, hf', -⟩ | ⟨-, -, e⟩
  · simp [hv] at hv'
  · exact absurd hf' hf
  · rw [e, hq]; rfl

/-- The one sequence byte of variant C (R128). -/
theorem execSyncPush_seq_only {s : State} (hst : s.st = .seq) (hv : variantC s = true) (b : Byte) :
    execSyncPush b s = .next { taken [b] s with seqr := b.setWidth 16, fcnt := 0#2, st := .size } := by
  rw [execSyncPush_of_seq hst]
  rcases pushSeq_cases b s with ⟨-, e⟩ | ⟨hv', -⟩ | ⟨hv', -⟩
  · rw [e]; rfl
  all_goals simp [hv] at hv'

/-- Variant A: two sequence bytes, low byte first. -/
theorem isSeqField_variantA (q : Half) : IsSeqField false [byteOf 0 q, byteOf 1 q] q := by
  intro s hv hst hf
  rw [taken_cons (byteOf 0 q)]
  refine pushAll_cons (execSyncPush_seq_first hst hv hf _) ?_
  exact pushAll_one (execSyncPush_seq_second hst hv (show 1#2 ≠ 0#2 by decide) (half_of_bytes q s.seqr))

/-- Variant C: one sequence byte, zero-extended. -/
theorem isSeqField_variantC (q : Byte) : IsSeqField true [q] (q.setWidth 16) :=
  fun _ hv hst _ => pushAll_one (execSyncPush_seq_only hst hv q)

/-- The state in SIZE after the length bytes `m`, with LENR and FCNT at `l` and `k`. -/
def sizeTaken (m : List Byte) (l : Word) (k : BitVec 2) (s : State) : State := { taken m s with lenr := l, fcnt := k }

theorem sizeTaken_nil {s : State} (hf : s.fcnt = 0#2) : sizeTaken [] s.lenr 0#2 s = s := by
  simp [sizeTaken, taken, zeros, ← hf]

section
variable {s : State} (hst : s.st = .size) (b : Byte) (m : List Byte) {l n : Word}

theorem takeLenByte_sizeTaken (k : BitVec 2) :
    takeLenByte b (sizeTaken m l k s) =
      if variantC s then setByte (if k = 0#2 then 1 else 0) b l else setByte k.toNat b l := rfl

theorem lastLenByte_sizeTaken (k : BitVec 2) :
    lastLenByte (sizeTaken m l k s) = if variantC s then k == 1#2 else k == 3#2 := rfl

include hst

/-- A length byte that is not the last (R129). -/
theorem execSyncPush_size_more {k : BitVec 2} (hl : lastLenByte (sizeTaken m l k s) = false)
    (hn : takeLenByte b (sizeTaken m l k s) = n) :
    execSyncPush b (sizeTaken m l k s) = .next (sizeTaken (m ++ [b]) n (k + 1#2) s) := by
  rw [execSyncPush_of_size (by exact hst)]
  rcases pushSize_cases b (sizeTaken m l k s) with ⟨-, e⟩ | ⟨hl', -⟩ | ⟨hl', -⟩
  · rw [e, hn, sizeTaken, sizeTaken, taken_append]; rfl
  all_goals simp [hl] at hl'

/-- The last length byte of a length within the ceiling (R129). -/
theorem execSyncPush_size_last {k : BitVec 2} (hl : lastLenByte (sizeTaken m l k s) = true)
    (hn : takeLenByte b (sizeTaken m l k s) = n) (hle : n ≤ s.params.maxLen) :
    execSyncPush b (sizeTaken m l k s) = .next { taken (m ++ [b]) s with lenr := n, fcnt := 0#2, st := .token } := by
  rw [execSyncPush_of_size (by exact hst)]
  subst hn
  rcases pushSize_cases b (sizeTaken m l k s) with ⟨hl', -⟩ | ⟨-, -, e⟩ | ⟨-, hgt, -⟩
  · simp [hl] at hl'
  · rw [e, taken_append]; rfl
  · exact absurd hle (BitVec.not_le.2 hgt)

end

/-- Variant A: four length bytes, low byte first. -/
theorem isLenField_variantA (n : Word) : IsLenField false [byteOf 0 n, byteOf 1 n, byteOf 2 n, byteOf 3 n] n := by
  intro s hv hst hf _ hle
  have htake (m : List Byte) (l : Word) (k : BitVec 2) (b : Byte) :
      takeLenByte b (sizeTaken m l k s) = setByte k.toNat b l := by
    simp [takeLenByte_sizeTaken, hv]
  have hlast (m : List Byte) (l : Word) (k : BitVec 2) : lastLenByte (sizeTaken m l k s) = (k == 3#2) := by
    simp [lastLenByte_sizeTaken, hv]
  rw [show pushAll _ s = pushAll _ (sizeTaken [] s.lenr 0#2 s) by rw [sizeTaken_nil hf]]
  refine pushAll_cons (execSyncPush_size_more hst _ _ (hlast ..) (htake ..)) ?_
  refine pushAll_cons (execSyncPush_size_more hst _ _ (hlast ..) (htake ..)) ?_
  refine pushAll_cons (execSyncPush_size_more hst _ _ (hlast ..) (htake ..)) ?_
  exact pushAll_one (execSyncPush_size_last hst _ _ (hlast ..) ((htake ..).trans (word_of_bytes n s.lenr)) hle)

/-- Variant C: two length bytes, high byte first. -/
theorem isLenField_variantC (n : Half) : IsLenField true [byteOf 1 n, byteOf 0 n] (n.setWidth 32) := by
  intro s hv hst hf hl hle
  have htake (m : List Byte) (l : Word) (k : BitVec 2) (b : Byte) :
      takeLenByte b (sizeTaken m l k s) = setByte (if k = 0#2 then 1 else 0) b l := by
    simp [takeLenByte_sizeTaken, hv]
  have hlast (m : List Byte) (l : Word) (k : BitVec 2) : lastLenByte (sizeTaken m l k s) = (k == 1#2) := by
    simp [lastLenByte_sizeTaken, hv]
  rw [show pushAll _ s = pushAll _ (sizeTaken [] 0#32 0#2 s) by rw [← hl, sizeTaken_nil hf]]
  refine pushAll_cons (execSyncPush_size_more hst _ _ (hlast ..) (htake ..)) ?_
  exact pushAll_one (execSyncPush_size_last hst _ _ (hlast ..) ((htake ..).trans (word_of_half n)) hle)

/-! ### The payload -/

/-- PBUF with a byte string written from index `a` up. -/
def Memory.writeBytes (m : Memory) (a : Nat) : List Byte → Memory
  | [] => m
  | b :: bs => Memory.writeBytes (m.write a b) (a + 1) bs

/-- A byte string written after a block reads back behind the block. -/
theorem Memory.readBytes_writeBytes (bs : List Byte) (m : Memory) (a n : Nat) :
    (m.writeBytes (a + n) bs).readBytes a (n + bs.length) = m.readBytes a n ++ bs := by
  induction bs generalizing m n with
  | nil => simp [Memory.writeBytes]
  | cons b bs ih =>
    have hrest := ih (m.write (a + n) b) (n + 1)
    rw [Memory.readBytes_write_next] at hrest
    simpa only [Memory.writeBytes, List.length_cons, List.append_assoc, List.singleton_append, Nat.add_assoc,
      Nat.add_comm 1] using hrest

theorem execSyncPush_token {s : State} (hst : s.st = .token) :
    execSyncPush tokenByte s = .next
      { taken [tokenByte] s with dcnt := 0#32, fcnt := 0#2, st := if s.lenr = 0#32 then .csum else .data } := by
  rcases pushToken_cases tokenByte s with ⟨-, e⟩ | ⟨hne, -⟩
  · simp only [execSyncPush, hst, dataByte, e]
    rfl
  · exact absurd rfl hne

theorem execSyncPush_data {s : State} (hst : s.st = .data) (hm : s.dcnt < s.params.maxLen) (b : Byte) :
    execSyncPush b s = .next
      { taken [b] s with
        pbuf := s.pbuf.write s.dcnt.toNat b, dcnt := s.dcnt + 1#32
        fcnt := if s.dcnt + 1#32 = s.lenr then 0#2 else s.fcnt
        st := if s.dcnt + 1#32 = s.lenr then .csum else s.st } := by
  simp only [execSyncPush, hst, dataByte, pushData_ok.2 ⟨hm, rfl⟩]
  rfl

/-- The state in CSUM after the bytes `payload` from DATA, the last of the LENR bytes of the frame's payload. -/
def payloadTaken (payload : List Byte) (s : State) : State :=
  { taken payload s with pbuf := s.pbuf.writeBytes s.dcnt.toNat payload, dcnt := s.lenr, fcnt := 0#2, st := .csum }

/-- In DATA: the bytes up to LENR are written from DCNT on (R131), by induction over them. -/
theorem pushAll_data {payload : List Byte} {s : State} (hst : s.st = .data) (hne : payload ≠ [])
    (hn : s.dcnt.toNat + payload.length = s.lenr.toNat) (hle : s.lenr ≤ s.params.maxLen) :
    pushAll payload s = .next (payloadTaken payload s) := by
  induction payload generalizing s with
  | nil => exact absurd rfl hne
  | cons b bs ih =>
    rw [List.length_cons] at hn
    have hnext : (s.dcnt + 1#32).toNat = s.dcnt.toNat + 1 := by have := s.lenr.isLt; bv_omega
    have hm : s.dcnt < s.params.maxLen := by bv_omega
    refine pushAll_cons (execSyncPush_data hst hm b) ?_
    by_cases hbs : bs = []
    · subst hbs
      have hlast : s.dcnt + 1#32 = s.lenr := BitVec.eq_of_toNat_eq (by rw [hnext]; exact hn)
      simp only [hlast, if_true]
      rfl
    · have hmore : s.dcnt + 1#32 ≠ s.lenr := by
        intro h
        have : bs.length ≠ 0 := by simpa using hbs
        rw [h] at hnext
        omega
      simp only [hmore, if_false]
      have hrest : (s.dcnt + 1#32).toNat + bs.length = s.lenr.toNat := by omega
      refine Eq.trans (ih (by exact hst) hbs (by exact hrest) hle) ?_
      simp only [payloadTaken, taken_cons b bs, Memory.writeBytes, hnext]
      rfl

/-- From TOKEN on: the TOKEN byte and a payload of LENR bytes, which may be empty, lead to CSUM (R130, R131). -/
theorem pushAll_token_payload {payload : List Byte} {s : State} (hst : s.st = .token)
    (hn : payload.length = s.lenr.toNat) (hle : s.lenr ≤ s.params.maxLen) :
    pushAll (tokenByte :: payload) s = .next
      { taken (tokenByte :: payload) s with
        pbuf := s.pbuf.writeBytes 0 payload, dcnt := s.lenr, fcnt := 0#2, st := .csum } := by
  refine pushAll_cons (execSyncPush_token hst) ?_
  by_cases hp : payload = []
  · subst hp
    have hzero : s.lenr = 0#32 := BitVec.eq_of_toNat_eq hn.symm
    simp only [hzero, if_true]
    rfl
  · have hpos : s.lenr ≠ 0#32 := by
      intro h
      exact hp (List.length_eq_zero_iff.1 (by rw [hn, h]; rfl))
    simp only [hpos, if_false]
    have hcount : (0#32).toNat + payload.length = s.lenr.toNat := (Nat.zero_add _).trans hn
    rw [taken_cons tokenByte payload]
    exact pushAll_data rfl hp (by exact hcount) (by exact hle)

/-! ### The checksum -/

/-- The state in DONE that a frame ends in, from the one whose residues have taken all of it (R132, R133). -/
def delivered (s : State) : State :=
  { s with
    fcnt := 0#2, cksOk := residueZero s, isEvt := isEvent s.params (variantC s) s.seqr, rptr := 0#32, st := .done
    err := if residueZero s = true then s.err else s.err ||| errBit .cksum }

/-- The last checksum byte. -/
theorem execSyncPush_csum_last {s : State} (hst : s.st = .csum) (h : ¬ (variantC s = false ∧ s.fcnt = 0#2)) (b : Byte) :
    execSyncPush b s = .next (delivered (taken [b] s)) := by
  have hz : residueZero (taken [b] s) = residueZero (acc b s) := rfl
  rw [execSyncPush_of_csum hst, delivered, hz]
  rcases pushCsum_cases b s with ⟨hv, hf, -⟩ | ⟨-, hr, e⟩ | ⟨-, hr, e⟩
  · exact absurd ⟨hv, hf⟩ h
  all_goals rw [e, hr]; rfl

/-- The first of the two checksum bytes of variant A. -/
theorem execSyncPush_csum_first {s : State} (hst : s.st = .csum) (hv : variantC s = false) (hf : s.fcnt = 0#2) (b : Byte) :
    execSyncPush b s = .next { taken [b] s with fcnt := 1#2 } := by
  rw [execSyncPush_of_csum hst]
  rcases pushCsum_cases b s with ⟨-, -, e⟩ | ⟨h, -⟩ | ⟨h, -⟩
  · rw [e]; rfl
  all_goals exact absurd ⟨hv, hf⟩ h

/-- Variant A: two checksum bytes. -/
theorem pushAll_csum_variantA {s : State} (hst : s.st = .csum) (hv : variantC s = false) (hf : s.fcnt = 0#2) (x y : Byte) :
    pushAll [x, y] s = .next (delivered (taken [x, y] s)) := by
  rw [taken_cons x]
  refine pushAll_cons (execSyncPush_csum_first hst hv hf x) ?_
  exact pushAll_one (execSyncPush_csum_last (by exact hst) (fun h => absurd (a := 1#2 = 0#2) h.2 (by decide)) y)

/-- Variant C: one checksum byte. -/
theorem pushAll_csum_variantC {s : State} (hst : s.st = .csum) (hv : variantC s = true) (x : Byte) :
    pushAll [x] s = .next (delivered (taken [x] s)) :=
  pushAll_one (execSyncPush_csum_last hst (fun h => by simp [hv] at h) x)

/-! ### A whole frame -/

/-- The state after the bytes `m` of a frame with sequence `q` and this payload, its last byte included. -/
def frameTaken (q : Half) (payload m : List Byte) (s : State) : State :=
  { taken m (opened s) with
    seqr := q, lenr := BitVec.ofNat 32 payload.length, dcnt := BitVec.ofNat 32 payload.length
    pbuf := s.pbuf.writeBytes 0 payload, st := .csum }

theorem taken_frameTaken (q : Half) (payload m m' : List Byte) (s : State) :
    taken m' (frameTaken q payload m s) = frameTaken q payload (m ++ m') s := by
  rw [frameTaken, frameTaken, taken_append]
  rfl

/-- A length within the ceiling is the length as a 32-bit word. -/
theorem length_word {n : Nat} {m : Word} (h : n ≤ m.toNat) : (BitVec.ofNat 32 n).toNat = n ∧ BitVec.ofNat 32 n ≤ m := by
  have hto : (BitVec.ofNat 32 n).toNat = n := by
    have hm := m.isLt
    rw [BitVec.toNat_ofNat]
    omega
  exact ⟨hto, by rw [BitVec.le_def, hto]; exact h⟩

/-- START, the two fields, TOKEN and the payload, in either variant. -/
theorem pushAll_covered {s : State} {c : Bool} {seqField lenField payload : List Byte} {q : Half}
    (hst : s.st = .waitStart) (hc : variantC s = c) (hlen : payload.length ≤ s.params.maxLen.toNat)
    (hseq : IsSeqField c seqField q) (hlenF : IsLenField c lenField (BitVec.ofNat 32 payload.length)) :
    pushAll (startByte :: (seqField ++ (lenField ++ tokenByte :: payload))) s =
      .next (frameTaken q payload (startByte :: (seqField ++ (lenField ++ tokenByte :: payload))) s) := by
  obtain ⟨hto, hle⟩ := length_word hlen
  have htaken : taken (startByte :: (seqField ++ (lenField ++ tokenByte :: payload))) (opened s) =
      taken (tokenByte :: payload) (taken lenField (taken seqField (taken [startByte] (opened s)))) := by
    rw [taken_cons startByte (seqField ++ _), taken_append, taken_append]
  rw [frameTaken, htaken]
  refine pushAll_cons (execSyncPush_start hst) ?_
  refine pushAll_append (hseq _ hc rfl rfl) (pushAll_append (hlenF _ hc rfl rfl rfl hle) ?_)
  exact pushAll_token_payload rfl hto.symm hle

theorem length_frameA (p : Params) (q : Half) (payload : List Byte) : (frameA p q payload).length = 10 + payload.length := by
  simp only [frameA, coveredA, headerA, crcBytes, List.length_append, List.length_cons, List.length_nil]
  omega

theorem length_frameC (q : Byte) (payload : List Byte) : (frameC q payload).length = 6 + payload.length := by
  simp only [frameC, coveredC, headerC, List.length_append, List.length_cons, List.length_nil]
  omega

/-- A whole variant A frame, with any two checksum bytes. -/
theorem pushAll_frame_variantA {s : State} {payload : List Byte} (hv : variantC s = false) (hst : s.st = .waitStart)
    (hlen : payload.length ≤ s.params.maxLen.toNat) (q : Half) (x y : Byte) :
    pushAll (coveredA q payload ++ [x, y]) s =
      .next (delivered (frameTaken q payload (coveredA q payload ++ [x, y]) s)) := by
  refine pushAll_append (pushAll_covered hst hv hlen (isSeqField_variantA q) (isLenField_variantA _)) ?_
  rw [← taken_frameTaken]
  exact pushAll_csum_variantA rfl (by exact hv) rfl x y

/-- A whole variant C frame, with any checksum byte. -/
theorem pushAll_frame_variantC {s : State} {payload : List Byte} (hv : variantC s = true) (hst : s.st = .waitStart)
    (hlen : payload.length ≤ s.params.maxLen.toNat) (h16 : payload.length < 2 ^ 16) (q x : Byte) :
    pushAll (coveredC q payload ++ [x]) s =
      .next (delivered (frameTaken (q.setWidth 16) payload (coveredC q payload ++ [x]) s)) := by
  have hn : (BitVec.ofNat 16 payload.length).setWidth 32 = BitVec.ofNat 32 payload.length :=
    BitVec.eq_of_toNat_eq (by simp only [BitVec.toNat_setWidth, BitVec.toNat_ofNat]; omega)
  have hlenF := isLenField_variantC (BitVec.ofNat 16 payload.length)
  rw [hn] at hlenF
  refine pushAll_append (pushAll_covered hst hv hlen (isSeqField_variantC q) hlenF) ?_
  rw [← taken_frameTaken]
  exact pushAll_csum_variantC rfl (by exact hv) x

/-- The residue after a whole frame is the checksum of all its bytes (R123). -/
theorem residueZero_frameTaken (q : Half) (payload m : List Byte) (s : State) :
    residueZero (frameTaken q payload m s) = if variantC s then xor8 m == 0x00#8 else crc16 s.params m == 0x0000#16 := rfl

/-- The payload of a delivered frame reads back from PBUF. -/
theorem readBytes_delivered (q : Half) (payload m : List Byte) (s : State) :
    (delivered (frameTaken q payload m s)).pbuf.readBytes 0 payload.length = payload := by
  have hread := Memory.readBytes_writeBytes payload s.pbuf 0 0
  rwa [Nat.zero_add, Nat.zero_add] at hread

/-- A delivered frame is held with its sequence and payload (R143), whatever its checksum. -/
theorem heldFrame_delivered {q : Half} {payload m : List Byte} {s : State} (hlen : payload.length ≤ s.params.maxLen.toNat) :
    heldFrame (delivered (frameTaken q payload m s)) =
      some { sequence := some q, payload := payload, checksumValid := residueZero (frameTaken q payload m s),
             isEvent := isEvent s.params (variantC s) q } := by
  refine heldFrame_eq_some.2 ⟨rfl, ?_, rfl, rfl, rfl⟩
  have hlenr : (delivered (frameTaken q payload m s)).lenr.toNat = payload.length := (length_word hlen).1
  rw [hlenr, readBytes_delivered]

/-- What the host finds after a frame `m` with residue 0. -/
theorem roundTrip_of_residue {s : State} {q : Half} {payload m : List Byte} {evt : Bool} {n : Nat}
    (hrun : pushAll m s = .next (delivered (frameTaken q payload m s))) (hlen : payload.length ≤ s.params.maxLen.toNat)
    (hz : residueZero (frameTaken q payload m s) = true) (hevt : isEvent s.params (variantC s) q = evt)
    (hn : m.length = n) :
    ∃ t : State, pushAll m s = .next t ∧ t.st = .done ∧ t.seqr = q ∧ t.lenr = BitVec.ofNat 32 payload.length ∧
      t.cksOk = true ∧ t.pbuf.readBytes 0 payload.length = payload ∧ t.err = s.err ∧ t.isEvt = evt ∧
      heldFrame t = some { sequence := some q, payload := payload, checksumValid := true, isEvent := evt } ∧
      t.ctrl = s.ctrl ∧ t.crc = s.crc ∧ t.xor = s.xor ∧ t.resps = s.resps ++ zeros n := by
  have hheld := heldFrame_delivered (q := q) (m := m) hlen
  rw [hz, hevt] at hheld
  have herr : (delivered (frameTaken q payload m s)).err = s.err := by rw [delivered, hz, if_pos rfl]; rfl
  subst hevt hn
  exact ⟨_, hrun, rfl, rfl, rfl, hz, readBytes_delivered q payload m s, herr, rfl, hheld, rfl, rfl, rfl, rfl⟩

/-! ### The residue of a frame -/

/-- Zeros fall out of the CRC register without the polynomial (R92). -/
theorem crcShifts_of_low_zero {poly r : Half} {k : Nat} (h : ∀ i < k, r.getLsbD i = false) : crcShifts poly k r = r >>> k := by
  induction k generalizing r with
  | zero => simp
  | succ k ih =>
    have hshift : crcShift poly r = r >>> 1 := by rw [crcShift, h 0 (by omega)]; simp
    have hrest (i : Nat) (hi : i < k) : (r >>> 1).getLsbD i = false := by
      rw [BitVec.getLsbD_ushiftRight, Nat.add_comm]
      exact h (i + 1) (by omega)
    rw [crcShifts_succ, hshift, ih hrest, ← BitVec.shiftRight_add, Nat.add_comm]

/-- A register that takes its own low byte moves down by a byte (R95(c)). -/
theorem crc16Step_low_byte (poly c : Half) : crc16Step poly c (byteOf 0 c) = c >>> 8 := by
  have hlow : ∀ i < 8, (c ^^^ (byteOf 0 c).setWidth 16).getLsbD i = false := by
    intro i hi
    simp [byteOf, hi, show i < 16 by omega]
  rw [crc16Step, crcShifts_of_low_zero hlow]
  refine BitVec.eq_of_getLsbD_eq fun i hi => ?_
  simp [byteOf]

/-- The CRC of a string with its CRC appended low byte first is 0 (R96). -/
theorem crc16_append_crcBytes (p : Params) (m : List Byte) : crc16 p (m ++ crcBytes (crc16 p m)) = 0x0000#16 := by
  have hhigh (c : Half) : byteOf 1 c = byteOf 0 (c >>> 8) := by
    refine BitVec.eq_of_getLsbD_eq fun i hi => ?_
    simp [byteOf]
  have hzero (c : Half) : c >>> 8 >>> 8 = 0x0000#16 := by
    rw [← BitVec.shiftRight_add]
    exact BitVec.ushiftRight_eq_zero (by omega)
  rw [crcBytes, ← List.singleton_append, ← List.append_assoc, crc16_append_one, crc16_append_one, crc16Step_low_byte,
    hhigh, crc16Step_low_byte, hzero]

/-- The XOR of a string with its XOR appended is 0 (R112). -/
theorem xor8_append_xor8 (m : List Byte) : xor8 (m ++ [xor8 m]) = 0x00#8 := by
  rw [xor8_append_one, BitVec.xor_self]

/-- Settles O51: the frame is delivered, and its residue is the CRC of a string that ends in its own CRC. -/
theorem roundTripVariantA : Obligations.RoundTripVariantA := by
  intro s q payload hv hst hlen
  have hres : residueZero (frameTaken q payload (frameA s.params q payload) s) = true := by
    rw [residueZero_frameTaken, frameA, crc16_append_crcBytes, show variantC s = false from hv]
    rfl
  have hevt : isEvent s.params (variantC s) q = decide (q = 0xFFFF#16) := by
    rw [show variantC s = false from hv]
    rfl
  exact roundTrip_of_residue (pushAll_frame_variantA hv hst hlen q _ _) hlen hres hevt
    (length_frameA s.params q payload)

/-- The one event value of variant C is an 8-bit one (R133). -/
theorem isEvent_variantC (p : Params) (q : Byte) :
    isEvent p true (q.setWidth 16) = decide (p.eventSeqC = some q) := by
  cases he : p.eventSeqC with
  | none => simp [isEvent, he]
  | some e =>
    have hinj : q.setWidth 16 = e.setWidth 16 ↔ e = q := by
      constructor
      · intro h
        have hq := q.isLt
        have he := e.isLt
        have hto := congrArg BitVec.toNat h
        simp only [BitVec.toNat_setWidth] at hto
        exact BitVec.eq_of_toNat_eq (by omega)
      · rintro rfl; rfl
    simp [isEvent, he, hinj, beq_eq_decide]

/-- Settles O52: the frame is delivered, and its residue is the XOR of a string that ends in its own XOR. -/
theorem roundTripVariantC : Obligations.RoundTripVariantC := by
  intro s q payload hv hst hlen h16
  have hres : residueZero (frameTaken (q.setWidth 16) payload (frameC q payload) s) = true := by
    rw [residueZero_frameTaken, frameC, xor8_append_xor8, show variantC s = true from hv]
    rfl
  have hevt : isEvent s.params (variantC s) (q.setWidth 16) = decide (s.params.eventSeqC = some q) := by
    rw [show variantC s = true from hv, isEvent_variantC]
  exact roundTrip_of_residue (pushAll_frame_variantC hv hst hlen h16 q _) hlen hres hevt
    (length_frameC q payload)

end Sys2Proof.Machine
end

section
/-! PROOFS. The statements about the CRC-16 unit (spec/40_crc16.md): `crc16_step` as a linear map, its table form, the residue,
the unit's commands, and the unit as the generator of a frame's check bytes. -/

namespace Sys2Proof.Machine

/-! ### One command from its fields -/

/-- The opcode map on a word written as its two fields (R63, R67). -/
theorem decode_append {opc d : Byte} {i : Instr} :
    decode (opc ++ d) = some i ↔ opc = i.opcode ∧ (i.takesD = true → d = i.operand) := by
  obtain ⟨hopc, hd⟩ := Laws.fields_append opc d
  rw [decode, hopc, hd, decodeFields_eq_some]

/-- A run of commands goes on from the state its first command leaves. -/
theorem issueAll_words_cons {i : Instr} {s t : State} (h : exec i s = .next t) (is : List Instr) :
    issueAll (words (i :: is)) s = issueAll (words is) t := by
  have hissue : issue (encode i) s = .next t := by rw [issue_eq, execWord_some (decode_encode i), h]
  exact issueAll_cons_next hissue

/-! ### The commands of the unit -/

theorem exec_crcInit (s : State) :
    exec .crcInit s = .next { s with crc := s.params.crcSeed, resps := s.resps ++ [0#32] } := rfl

theorem exec_crcByte (b : Byte) (s : State) :
    exec (.crcByte b) s = .next { s with crc := crc16Step s.params.crcPolyR s.crc b, resps := s.resps ++ [0#32] } := rfl

theorem exec_crcRd (s : State) : exec .crcRd s = .next { s with resps := s.resps ++ [s.crc.setWidth 32] } := rfl

theorem crcZero_iff {s : State} : crcZero s = true ↔ s.crc = 0x0000#16 := beq_iff_eq

/-- Settles O13: D has no part, and a CRC of 0xFFFF is not zero. -/
theorem crcInitLoadsTheSeed : Obligations.CrcInitLoadsTheSeed := by
  refine ⟨fun _ => decode_append.2 ⟨rfl, nofun⟩, fun s => ⟨_, exec_crcInit s, rfl, fun hseed => ?_⟩⟩
  simp [crcZero, hseed]

/-- Settles O14: the recursor spells out the eight shifts. -/
theorem crcByteFoldsOneByte : Obligations.CrcByteFoldsOneByte :=
  ⟨fun _ => decode_append.2 ⟨rfl, fun _ => rfl⟩, fun _ _ _ => rfl, exec_crcByte⟩

/-- Settles O15: D has no part, and only the response is written. -/
theorem crcReadAnswersCrc : Obligations.CrcReadAnswersCrc :=
  ⟨fun _ => decode_append.2 ⟨rfl, nofun⟩, exec_crcRd⟩

/-! ### `crc16_step` as a linear map -/

/-- One shift is linear: the polynomial comes in on both sides, on neither, or on the one whose low bit is 1. -/
theorem crcShift_xor (poly a b : Half) : crcShift poly (a ^^^ b) = crcShift poly a ^^^ crcShift poly b := by
  simp only [crcShift, BitVec.getLsbD_xor, BitVec.ushiftRight_xor_distrib]
  cases a.getLsbD 0 <;> cases b.getLsbD 0
  case false.false => rfl
  case false.true => exact BitVec.xor_assoc ..
  case true.false =>
    change a >>> 1 ^^^ b >>> 1 ^^^ poly = a >>> 1 ^^^ poly ^^^ b >>> 1
    ac_rfl
  case true.true =>
    calc a >>> 1 ^^^ b >>> 1
        = a >>> 1 ^^^ b >>> 1 ^^^ (poly ^^^ poly) := by rw [BitVec.xor_self, BitVec.xor_zero]
      _ = a >>> 1 ^^^ poly ^^^ (b >>> 1 ^^^ poly) := by ac_rfl

theorem crcShifts_xor (poly : Half) (n : Nat) (a b : Half) :
    crcShifts poly n (a ^^^ b) = crcShifts poly n a ^^^ crcShifts poly n b := by
  induction n generalizing a b with
  | zero => rfl
  | succ n ih => simp only [crcShifts_succ, crcShift_xor, ih]

/-- Linearity over XOR (R95(b)). -/
theorem crc16Step_xor (poly c₁ c₂ : Half) (b₁ b₂ : Byte) :
    crc16Step poly (c₁ ^^^ c₂) (b₁ ^^^ b₂) = crc16Step poly c₁ b₁ ^^^ crc16Step poly c₂ b₂ := by
  rw [crc16Step, crc16Step, crc16Step, ← crcShifts_xor, BitVec.setWidth_xor]
  congr 1
  ac_rfl

/-- With the polynomial's top bit 1, the top bit after a shift tells which bit fell out. -/
theorem crcShift_top {poly : Half} (hp : poly.getLsbD 15 = true) (r : Half) : (crcShift poly r).getLsbD 15 = r.getLsbD 0 := by
  unfold crcShift
  split <;> simp_all

/-- So a shift loses nothing: the bit that fell out and the other fifteen are all known after it. -/
theorem crcShift_injective {poly : Half} (hp : poly.getLsbD 15 = true) : Function.Injective (crcShift poly) := by
  intro a b h
  have hlow : a.getLsbD 0 = b.getLsbD 0 := by rw [← crcShift_top hp, h, crcShift_top hp]
  have hrest : a >>> 1 = b >>> 1 := by
    rw [crcShift, crcShift, hlow] at h
    split at h
    · exact (BitVec.xor_left_inj _).1 h
    · exact h
  refine BitVec.eq_of_getLsbD_eq fun i hi => ?_
  cases i with
  | zero => exact hlow
  | succ i => simpa [Nat.add_comm] using congrArg (·.getLsbD i) hrest

theorem crcShifts_injective {poly : Half} (hp : poly.getLsbD 15 = true) (n : Nat) :
    Function.Injective (crcShifts poly n) := by
  induction n with
  | zero => exact fun _ _ h => h
  | succ n ih => exact ih.comp (crcShift_injective hp)

/-- An injective map of the 16-bit values to themselves is a bijection (R95(d)). -/
theorem crc16Step_bijective {poly : Half} (hp : poly.getLsbD 15 = true) (b : Byte) :
    Function.Bijective fun c : Half => crc16Step poly c b :=
  Finite.injective_iff_bijective.1 fun _ _ h => (BitVec.xor_left_inj _).1 (crcShifts_injective hp 8 h)

/-- Settles O16: the eight shifts are linear, and injective when the polynomial's top bit is 1. -/
theorem crcStepLaws : Obligations.CrcStepLaws := fun poly =>
  ⟨crc16Step_low_byte poly 0x0000#16, crc16Step_xor poly, crc16Step_low_byte poly, crc16Step_bijective⟩

/-! ### The table form -/

/-- The table form: the register splits into its high byte, which only moves down, and its low byte, which the table takes
(R94). -/
theorem crc16Step_eq_table (poly c : Half) (b : Byte) :
    crc16Step poly c b = (c >>> 8) ^^^ crc16Step poly 0x0000#16 (byteOf 0 (c ^^^ b.setWidth 16)) := by
  have hhigh : (c ^^^ b.setWidth 16) >>> 8 = c >>> 8 := by
    refine BitVec.eq_of_getLsbD_eq fun i hi => ?_
    simp
  generalize hx : c ^^^ b.setWidth 16 = x at hhigh
  calc crc16Step poly c b
      = crc16Step poly (x ^^^ 0x0000#16) (byteOf 0 x ^^^ byteOf 0 x) := by simp [crc16Step, hx]
    _ = crc16Step poly x (byteOf 0 x) ^^^ crc16Step poly 0x0000#16 (byteOf 0 x) := crc16Step_xor ..
    _ = (c >>> 8) ^^^ crc16Step poly 0x0000#16 (byteOf 0 x) := by rw [crc16Step_low_byte, hhigh]

/-- The 256 printed values are the step's. -/
theorem crcTable_getElem? : ∀ i < 256, crcTable[i]? = some (crc16Step 0x8408#16 0x0000#16 (BitVec.ofNat 8 i)) := by
  decide +kernel

/-- The table's entry for the low byte of a register. -/
theorem crcTable_getD (x : Half) :
    crcTable.getD (x &&& 0x00FF#16).toNat 0#16 = crc16Step 0x8408#16 0x0000#16 (byteOf 0 x) := by
  have hindex : (x &&& 0x00FF#16).toNat = x.toNat % 256 := by
    rw [BitVec.toNat_and]
    exact Nat.and_two_pow_sub_one_eq_mod x.toNat 8
  have hbyte : BitVec.ofNat 8 (x.toNat % 256) = byteOf 0 x := BitVec.eq_of_toNat_eq (by simp [byteOf])
  rw [hindex, List.getD_eq_getElem?_getD, crcTable_getElem? _ (Nat.mod_lt _ (by decide)), hbyte, Option.getD_some]

/-- Settles O17: linearity splits the register; the printed values are compared one by one. -/
theorem crcTableFormIsTheStep : Obligations.CrcTableFormIsTheStep := by
  refine ⟨crc16Step_eq_table, crcTable_getElem?, fun c b => ?_⟩
  rw [crc16TableStep, crcTable_getD, ← crc16Step_eq_table]

/-! ### The residue and the check bytes of a frame -/

/-- Settles O18: the two bytes are the CRC's, low byte first; the example of the other order is evaluated. -/
theorem crcResidueIsZero : Obligations.CrcResidueIsZero :=
  ⟨crc16_append_crcBytes, by decide +kernel, by decide +kernel⟩

/-- CRC_BLOCK folds its bytes into CRC, and each is answered 0 (R71, R98). -/
theorem issueAll_crcBlock (m : List Byte) (s : State) :
    issueAll (words (expand (.crcBlock m))) s =
      .next { s with crc := crcFold s.params.crcPolyR s.crc m, resps := s.resps ++ zeros m.length } := by
  induction m generalizing s with
  | nil => simp [expand, words, zeros]
  | cons b m ih =>
    refine (issueAll_words_cons (exec_crcByte b s) _).trans ((ih _).trans ?_)
    simp [zeros, List.replicate_succ]

/-- CRC_INIT, a block and CRC_RD answer the CRC of the block. -/
theorem issueAll_crc16 (m : List Byte) (s : State) :
    issueAll (words ([.crcInit] ++ expand (.crcBlock m) ++ [.crcRd])) s =
      .next { s with crc := crc16 s.params m
                     resps := s.resps ++ zeros (1 + m.length) ++ [(crc16 s.params m).setWidth 32] } := by
  have hblock := issueAll_crcBlock m { s with crc := s.params.crcSeed, resps := s.resps ++ [0#32] }
  rw [List.append_assoc, List.singleton_append, issueAll_words_cons (exec_crcInit s), words, List.map_append,
    ← words, ← words, issueAll_append_next hblock, issueAll_words_cons (exec_crcRd _)]
  simp [words, zeros, crc16, Nat.add_comm 1, List.replicate_succ]

/-- Settles O24: the accumulator goes through the string of the residue law, the covered bytes and then the CRC's two. -/
theorem crcUnitGeneratesFrameA : Obligations.CrcUnitGeneratesFrameA := by
  intro s seq payload
  have hresidue := crc16_append_crcBytes s.params (coveredA seq payload)
  rw [crc16, crcFold_append] at hresidue
  exact ⟨_, _, _, issueAll_crc16 _ s, rfl, rfl, issueAll_crcBlock (crcBytes _) _, hresidue,
    crcZero_iff.2 hresidue⟩

end Sys2Proof.Machine
end

section
/-! PROOFS. The statements about the XOR-checksum unit (spec/41_xor.md): the laws of `xor8`, the unit's commands, and the unit
as the generator of a frame's check byte. -/

namespace Sys2Proof.Machine

/-! ### The laws of `xor8` -/

/-- A string is taken in two parts (R112 (c)): the first part's XOR is the start value of the second, and comes out of it. -/
theorem xor8_append (m₁ m₂ : List Byte) : xor8 (m₁ ++ m₂) = xor8 m₁ ^^^ xor8 m₂ := by
  calc xor8 (m₁ ++ m₂)
      = m₂.foldl (· ^^^ ·) (xor8 m₁ ^^^ 0x00#8) := by rw [BitVec.xor_zero, xor8, List.foldl_append, ← xor8]
    _ = xor8 m₁ ^^^ xor8 m₂ := List.foldl_assoc

/-- The first byte of a string, split off. -/
theorem xor8_cons (b : Byte) (m : List Byte) : xor8 (b :: m) = b ^^^ xor8 m := by
  rw [← List.singleton_append, xor8_append, ← List.nil_append [b], xor8_append_one, xor8_nil, BitVec.zero_xor]

/-- Order does not matter (R112 (b)), because two bytes next to each other can change places. -/
theorem xor8_perm {m m' : List Byte} (h : m.Perm m') : xor8 m = xor8 m' := by
  induction h with
  | nil => rfl
  | cons b _ ih => rw [xor8_cons, xor8_cons, ih]
  | swap a b m => simp only [xor8_cons]; ac_rfl
  | trans _ _ ih₁ ih₂ => exact ih₁.trans ih₂

/-- Settles O23: the residue law, and the commutativity and the associativity of XOR along a string. -/
theorem xorLaws : Obligations.XorLaws :=
  ⟨xor8_append_xor8, fun _ _ => xor8_perm, xor8_append⟩

/-! ### The commands of the unit -/

theorem exec_xorInit (s : State) : exec .xorInit s = .next { s with xor := 0x00#8, resps := s.resps ++ [0#32] } := rfl

theorem exec_xorByte (b : Byte) (s : State) :
    exec (.xorByte b) s = .next { s with xor := s.xor ^^^ b, resps := s.resps ++ [0#32] } := rfl

theorem exec_xorRd (s : State) : exec .xorRd s = .next { s with resps := s.resps ++ [s.xor.setWidth 32] } := rfl

theorem xorZero_iff {s : State} : xorZero s = true ↔ s.xor = 0x00#8 := beq_iff_eq

/-- Settles O20: D has no part, and XOR_ZERO is computed from the XOR just cleared. -/
theorem xorInitClears : Obligations.XorInitClears :=
  ⟨fun _ => decode_append.2 ⟨rfl, nofun⟩, fun s => ⟨_, exec_xorInit s, rfl, xorZero_iff.2 rfl⟩⟩

/-- Settles O21: D is the byte folded in. -/
theorem xorByteFoldsOneByte : Obligations.XorByteFoldsOneByte :=
  ⟨fun _ => decode_append.2 ⟨rfl, fun _ => rfl⟩, exec_xorByte⟩

/-- Settles O22: D has no part, and only the response is written. -/
theorem xorReadAnswersXor : Obligations.XorReadAnswersXor :=
  ⟨fun _ => decode_append.2 ⟨rfl, nofun⟩, exec_xorRd⟩

/-! ### The check byte of a frame -/

/-- XOR_BLOCK folds its bytes into XOR, and each is answered 0 (R71, R109). -/
theorem issueAll_xorBlock (m : List Byte) (s : State) :
    issueAll (words (expand (.xorBlock m))) s =
      .next { s with xor := s.xor ^^^ xor8 m, resps := s.resps ++ zeros m.length } := by
  induction m generalizing s with
  | nil => simp [expand, words, zeros]
  | cons b m ih =>
    refine (issueAll_words_cons (exec_xorByte b s) _).trans ((ih _).trans ?_)
    simp [zeros, List.replicate_succ, xor8_cons, BitVec.xor_assoc]

/-- XOR_INIT, a block and XOR_RD answer the XOR of the block. -/
theorem issueAll_xor8 (m : List Byte) (s : State) :
    issueAll (words ([.xorInit] ++ expand (.xorBlock m) ++ [.xorRd])) s =
      .next { s with xor := xor8 m, resps := s.resps ++ zeros (1 + m.length) ++ [(xor8 m).setWidth 32] } := by
  have hblock := issueAll_xorBlock m { s with xor := 0x00#8, resps := s.resps ++ [0#32] }
  rw [List.append_assoc, List.singleton_append, issueAll_words_cons (exec_xorInit s), words, List.map_append,
    ← words, ← words, issueAll_append_next hblock, issueAll_words_cons (exec_xorRd _)]
  simp [words, zeros, Nat.add_comm 1, List.replicate_succ]

/-- Settles O25: the unit answers `xor8` of the covered bytes, which is the byte that `frameC` appends to them. -/
theorem xorUnitGeneratesFrameC : Obligations.XorUnitGeneratesFrameC :=
  fun s _ _ => ⟨_, _, issueAll_xor8 _ s, rfl, rfl⟩

end Sys2Proof.Machine
end

section
/-! PROOFS. The frame synchronizer's invariant (spec/42_sync.md R135): what a step can do, and that every step keeps the clauses
one state shows and clause (e) about the bytes pushed. -/

namespace Sys2Proof.Machine

/-! ### What a step can do -/

/-- A step: an idle port, a reset pulse, a legal command or an illegal one. -/
theorem step_next {s t : State} (h : step s = .next t) :
    (s.inputs = [] ∧ t = s) ∨
    (∃ rest, s.inputs = .reset :: rest ∧ t = hardReset { s with inputs := rest }) ∨
    (∃ w rest i, s.inputs = .command w :: rest ∧ decode w = some i ∧ exec i { s with inputs := rest } = .next t) ∨
    (∃ w rest, s.inputs = .command w :: rest ∧ decode w = none ∧ t = illegalCommand { s with inputs := rest }) := by
  cases hin : s.inputs with
  | nil =>
    simp only [step, takeInput_none.2 hin] at h
    cases h
    exact .inl ⟨rfl, rfl⟩
  | cons x rest =>
    cases x with
    | reset =>
      simp only [step, takeInput_some.2 ⟨rest, hin, rfl⟩] at h
      cases h
      exact .inr (.inl ⟨rest, rfl, rfl⟩)
    | command w =>
      rw [step_command hin] at h
      cases hd : decode w with
      | some i => exact .inr (.inr (.inl ⟨w, rest, i, rfl, hd, by rw [← h, execWord_some hd]⟩))
      | none =>
        rw [execWord_none hd] at h
        cases h
        exact .inr (.inr (.inr ⟨w, rest, rfl, hd, rfl⟩))

/-! ### The clauses about the frame's fields -/

/-- The clauses of the invariant that speak of the frame's fields and bits: all but the bounds on the payload, and those about
CTRL and PBUF. -/
def FrameFields (s : State) : Prop :=
  GarbageCountedOnlyWaiting s ∧ FieldIndexInRange s ∧ VariantCFieldsNarrow s ∧ VariantCCsumIndexZero s ∧
    FrameBitsClearMidFrame s ∧ HeldFrameBits s ∧ ReadPointerWithinPayload s

theorem machineInvariant_iff (s : State) :
    MachineInvariant s ↔ PayloadBounds s ∧ FrameFields s ∧ CtrlReservedZero s ∧ PbufWellFormed s := by
  unfold MachineInvariant SyncInvariant PayloadBounds FrameFields
  tauto

/-- The items of state that `FrameFields` speaks of. -/
def frameItems (s : State) : Params × Bool × St × Half × Word × BitVec 2 × Half × Byte × Bool × Bool × Word × Word :=
  (s.params, variantC s, s.st, s.seqr, s.lenr, s.fcnt, s.rcrc, s.rxor, s.cksOk, s.isEvt, s.rptr, s.gcnt)

theorem FrameFields.congr {s t : State} (h : FrameFields s) (e : frameItems t = frameItems s) : FrameFields t := by
  simp only [frameItems, Prod.mk.injEq] at e
  obtain ⟨hp, hv, hst, hseqr, hlenr, hfcnt, hrcrc, hrxor, hck, hev, hrptr, hgcnt⟩ := e
  simpa only [FrameFields, GarbageCountedOnlyWaiting, FieldIndexInRange, VariantCFieldsNarrow, VariantCCsumIndexZero,
    FrameBitsClearMidFrame, HeldFrameBits, ReadPointerWithinPayload, residueZero, hp, hv, hst, hseqr, hlenr, hfcnt, hrcrc,
    hrxor, hck, hev, hrptr, hgcnt] using h

/-- The read pointer may move within the payload (R139, R141). -/
theorem FrameFields.with_rptr {s : State} (h : FrameFields s) {r : Word} (hr : s.st = .done → r ≤ s.lenr) :
    FrameFields { s with rptr := r } := by
  obtain ⟨hgarbage, hindex, hnarrow, hcsum, hbits, hheld, -⟩ := h
  exact ⟨hgarbage, hindex, hnarrow, hcsum, hbits, hheld, hr⟩

/-- The number of bytes of the field that a synchronizer state takes, which bounds FCNT (R116, R135(g)); 1 where it takes none. -/
def fieldBytes (c : Bool) : St → Nat
  | .seq => seqBytes c
  | .size => sizeBytes c
  | .csum => csumBytes c
  | .waitStart | .token | .data | .done | .unused => 1

theorem fieldBytes_pos (c : Bool) (st : St) : (0#2).toNat < fieldBytes c st := by
  cases c <;> cases st <;> decide

/-- What the clauses say in WAIT_START. -/
theorem frameFields_waitStart {s : State} (hst : s.st = .waitStart) :
    FrameFields s ↔ s.fcnt = 0#2 ∧ VariantCFieldsNarrow s := by
  simp [FrameFields, GarbageCountedOnlyWaiting, FieldIndexInRange, VariantCCsumIndexZero, FrameBitsClearMidFrame,
    HeldFrameBits, ReadPointerWithinPayload, hst]

/-- What the clauses say from START until the frame is delivered. -/
theorem frameFields_midFrame {s : State}
    (hst : s.st = .seq ∨ s.st = .size ∨ s.st = .token ∨ s.st = .data ∨ s.st = .csum) :
    FrameFields s ↔ s.gcnt = 0#32 ∧ s.fcnt.toNat < fieldBytes (variantC s) s.st ∧ VariantCFieldsNarrow s ∧
      s.cksOk = false ∧ s.isEvt = false := by
  have hzero : s.fcnt.toNat = 0 ↔ s.fcnt = 0#2 := ⟨fun h => BitVec.eq_of_toNat_eq h, fun h => by rw [h]; rfl⟩
  rcases hst with hst | hst | hst | hst | hst <;> cases hv : variantC s <;>
    simp [FrameFields, GarbageCountedOnlyWaiting, FieldIndexInRange, VariantCCsumIndexZero, FrameBitsClearMidFrame,
      HeldFrameBits, ReadPointerWithinPayload, fieldBytes, seqBytes, sizeBytes, csumBytes, hst, hv, hzero, and_left_comm]

/-- What the clauses say in DONE. -/
theorem frameFields_done {s : State} (hst : s.st = .done) :
    FrameFields s ↔ s.gcnt = 0#32 ∧ s.fcnt = 0#2 ∧ VariantCFieldsNarrow s ∧
      (s.cksOk = residueZero s ∧ s.isEvt = isEvent s.params (variantC s) s.seqr) ∧ s.rptr ≤ s.lenr := by
  simp [FrameFields, GarbageCountedOnlyWaiting, FieldIndexInRange, VariantCCsumIndexZero, FrameBitsClearMidFrame,
    HeldFrameBits, ReadPointerWithinPayload, hst]

/-- A frame that was abandoned leaves no field behind (R136, R153). -/
theorem frameFields_cleared {s : State} (hst : s.st = .waitStart) (hf : s.fcnt = 0#2) (hl : s.lenr = 0#32)
    (hq : s.seqr = 0#16) : FrameFields s :=
  (frameFields_waitStart hst).2 ⟨hf, fun _ => by simp [hl, hq]⟩

/-! ### SYNC_PUSH keeps them, state by state -/

section
variable (b : Byte) {s : State} (h : FrameFields s)
include h

theorem pushWaitStart_keeps_frameFields (hs : s.st = .waitStart) : FrameFields (pushWaitStart b s) := by
  rcases pushWaitStart_cases b s with ⟨-, e⟩ | ⟨-, -, -, e⟩ | ⟨-, -, e⟩ <;> rw [e]
  · exact (frameFields_midFrame (.inl rfl)).2 ⟨rfl, fieldBytes_pos _ _, fun _ => by simp, rfl, rfl⟩
  all_goals exact (frameFields_waitStart (by exact hs)).2 ((frameFields_waitStart hs).1 h)

theorem pushSeq_keeps_frameFields (hs : s.st = .seq) : FrameFields (pushSeq b s) := by
  obtain ⟨hg, -, hn, hbits⟩ := (frameFields_midFrame (.inl hs)).1 h
  rcases pushSeq_cases b s with ⟨-, e⟩ | ⟨hv, -, e⟩ | ⟨hv, -, e⟩ <;> rw [e]
  · refine (frameFields_midFrame (.inr (.inl rfl))).2 ⟨hg, fieldBytes_pos _ _, fun hv => (hn hv).imp_right fun _ => ?_, hbits⟩
    rw [BitVec.toNat_setWidth_of_le (by decide)]
    exact b.isLt
  · refine (frameFields_midFrame (.inl (by exact hs))).2 ⟨hg, ?_, fun hv' => absurd (hv.symm.trans hv') (by decide), hbits⟩
    show (1#2).toNat < fieldBytes (variantC s) s.st
    rw [hv, hs]
    decide
  · exact (frameFields_midFrame (.inr (.inl rfl))).2
      ⟨hg, fieldBytes_pos _ _, fun hv' => absurd (hv.symm.trans hv') (by decide), hbits⟩

omit h in
/-- A length byte of variant C goes to the low half of LENR (R129). -/
theorem takeLenByte_narrow (hv : variantC s = true) (hl : s.lenr.toNat < 2 ^ 16) : (takeLenByte b s).toNat < 2 ^ 16 := by
  have hbit : ∀ i, 16 ≤ i → (takeLenByte b s).getLsbD i = false := by
    intro i hi
    have hlow : s.lenr.getLsbD i = false := Nat.testBit_lt_two_pow (Nat.lt_of_lt_of_le hl (Nat.pow_le_pow_right (by decide) hi))
    rw [takeLenByte, if_pos hv, setByte_getLsbD]
    split <;> simp [hlow] <;> omega
  exact Nat.lt_pow_two_of_testBit _ hbit

theorem pushSize_keeps_frameFields (hs : s.st = .size) : FrameFields (pushSize b s) := by
  obtain ⟨hg, hindex, hn, hbits⟩ := (frameFields_midFrame (.inr (.inl hs))).1 h
  have hnarrow (hv : variantC s = true) : (takeLenByte b s).toNat < 2 ^ 16 ∧ s.seqr.toNat < 2 ^ 8 :=
    (hn hv).imp_left (takeLenByte_narrow b hv)
  rcases pushSize_cases b s with ⟨hl, e⟩ | ⟨-, -, e⟩ | ⟨-, -, e⟩ <;> rw [e]
  · refine (frameFields_midFrame (.inr (.inl (by exact hs)))).2 ⟨hg, ?_, hnarrow, hbits⟩
    show (s.fcnt + 1#2).toNat < fieldBytes (variantC s) s.st
    rw [hs] at hindex ⊢
    cases hv : variantC s with
    | false => exact (s.fcnt + 1#2).isLt
    | true =>
      have hne : s.fcnt ≠ 1#2 := by simpa [lastLenByte, hv] using hl
      rw [hv] at hindex
      change s.fcnt.toNat < 2 at hindex
      show (s.fcnt + 1#2).toNat < 2
      bv_omega
  · exact (frameFields_midFrame (.inr (.inr (.inl rfl)))).2 ⟨hg, fieldBytes_pos _ _, hnarrow, hbits⟩
  · exact (frameFields_waitStart rfl).2 ⟨rfl, hnarrow⟩

theorem pushToken_keeps_frameFields (hs : s.st = .token) : FrameFields (pushToken b s) := by
  obtain ⟨hg, hindex, hn, hbits⟩ := (frameFields_midFrame (.inr (.inr (.inl hs)))).1 h
  rw [hs] at hindex
  rcases pushToken_cases b s with ⟨-, e⟩ | ⟨-, e⟩ <;> rw [e]
  · refine (frameFields_midFrame ?_).2 ⟨hg, fieldBytes_pos _ _, hn, hbits⟩
    by_cases hl : s.lenr = 0#32 <;> simp [hl]
  · exact (frameFields_waitStart rfl).2 ⟨BitVec.eq_of_toNat_eq (Nat.lt_one_iff.1 hindex), hn⟩

theorem pushData_keeps_frameFields {t : State} (hs : s.st = .data) (ht : pushData b s = .ok t) : FrameFields t := by
  obtain ⟨hg, hindex, hn, hbits⟩ := (frameFields_midFrame (.inr (.inr (.inr (.inl hs))))).1 h
  obtain ⟨-, rfl⟩ := pushData_ok.1 ht
  by_cases hl : s.dcnt + 1#32 = s.lenr
  · simp only [hl, if_true]
    exact (frameFields_midFrame (by simp)).2 ⟨hg, fieldBytes_pos _ _, hn, hbits⟩
  · simp only [hl, if_false]
    exact (frameFields_midFrame (by simp [hs])).2 ⟨hg, hindex, hn, hbits⟩

theorem pushCsum_keeps_frameFields (hs : s.st = .csum) : FrameFields (pushCsum b s) := by
  obtain ⟨hg, -, hn, hbits⟩ := (frameFields_midFrame (.inr (.inr (.inr (.inr hs))))).1 h
  rcases pushCsum_cases b s with ⟨hv, -, e⟩ | ⟨-, hz, e⟩ | ⟨-, hz, e⟩ <;> rw [e]
  · refine (frameFields_midFrame (.inr (.inr (.inr (.inr (by exact hs)))))).2 ⟨hg, ?_, hn, hbits⟩
    show (1#2).toNat < fieldBytes (variantC s) s.st
    rw [hv, hs]
    decide
  all_goals exact (frameFields_done rfl).2 ⟨hg, rfl, hn, ⟨hz.symm, rfl⟩, Nat.zero_le _⟩

theorem execSyncPush_keeps_frameFields {t : State} (e : execSyncPush b s = .next t) : FrameFields t := by
  have respond_keeps {u : State} (hu : FrameFields u) : FrameFields (respond 0#32 u) := hu.congr rfl
  rcases execSyncPush_next e with
    ⟨hs, rfl⟩ | ⟨hs, rfl⟩ | ⟨hs, rfl⟩ | ⟨hs, rfl⟩ | ⟨hs, u, hu, rfl⟩ | ⟨hs, rfl⟩ | ⟨hs, rfl⟩ <;> apply respond_keeps
  · exact pushWaitStart_keeps_frameFields b h hs
  · exact pushSeq_keeps_frameFields b h hs
  · exact pushSize_keeps_frameFields b h hs
  · exact pushToken_keeps_frameFields b h hs
  · exact pushData_keeps_frameFields b h hs hu
  · exact pushCsum_keeps_frameFields b h hs
  · exact h.congr rfl

end

/-! ### Every command keeps the invariant -/

/-- WR_CTRL writes D's VARIANT. -/
theorem variantC_ctrlImage (d : Byte) (s : State) : variantC { s with ctrl := ctrlImage d } = d.getLsbD 0 := by
  simp [variantC]

/-- The other commands abandon the frame, release it, or leave its fields and bits alone; RD_PAYLOAD and RPTR_CLR move RPTR
within the payload. -/
theorem exec_keeps_frameFields {i : Instr} {s t : State} (h : FrameFields s) (e : exec i s = .next t) : FrameFields t := by
  cases i
  case syncPush b => exact execSyncPush_keeps_frameFields b h e
  case wrCtrl d =>
    rcases exec_wrCtrl_next.1 e with ⟨hv, rfl⟩ | ⟨-, rfl⟩
    · refine h.congr ?_
      have hv' : variantC { s with ctrl := ctrlImage d } = variantC s := (variantC_ctrlImage d s).trans hv
      simp only [frameItems, variantC_respond, hv']
      rfl
    · exact frameFields_cleared rfl rfl rfl rfl
  case softReset | syncReset => cases e; exact frameFields_cleared rfl rfl rfl rfl
  case syncRelease =>
    rcases exec_syncRelease_next.1 e with ⟨hs, rfl⟩ | ⟨-, rfl⟩
    · obtain ⟨-, hf, hn, -⟩ := (frameFields_done hs).1 h
      exact (frameFields_waitStart rfl).2 ⟨hf, hn⟩
    · exact h.congr rfl
  case rdPayload =>
    rcases exec_rdPayload_next.1 e with ⟨⟨-, hr⟩, -, rfl⟩ | ⟨-, rfl⟩
    · exact (h.with_rptr (r := s.rptr + 1#32) fun _ => by bv_omega).congr rfl
    · exact h.congr rfl
  case rptrClr =>
    cases e
    exact (h.with_rptr (r := 0#32) fun _ => Nat.zero_le _).congr rfl
  all_goals cases e; exact h.congr rfl

theorem ctrlReservedZero_of_clear {s : State} (h : s.ctrl = 0x00#8) : CtrlReservedZero s := by
  rw [CtrlReservedZero, h]
  decide

/-- CTRL is written by WR_CTRL, which takes three bits of D, and cleared by SOFT_RESET (R23). -/
theorem exec_keeps_ctrlReservedZero {i : Instr} {s t : State} (h : CtrlReservedZero s) (e : exec i s = .next t) :
    CtrlReservedZero t := by
  cases i
  case syncPush b =>
    obtain ⟨-, -, hctrl, -⟩ := execSyncPush_frame e
    rwa [CtrlReservedZero, hctrl]
  case wrCtrl d =>
    have hctrl : t.ctrl = ctrlImage d := by rcases exec_wrCtrl_next.1 e with ⟨-, rfl⟩ | ⟨-, rfl⟩ <;> rfl
    have himage : (ctrlImage d).extractLsb' 3 5 = 0#5 := by
      refine BitVec.eq_of_getLsbD_eq fun i _ => ?_
      simp [ctrlImage]
    rwa [CtrlReservedZero, hctrl]
  case softReset => cases e; exact ctrlReservedZero_of_clear rfl
  case syncRelease => rcases exec_syncRelease_next.1 e with ⟨-, rfl⟩ | ⟨-, rfl⟩ <;> exact h
  case rdPayload => rcases exec_rdPayload_next.1 e with ⟨-, -, rfl⟩ | ⟨-, rfl⟩ <;> exact h
  all_goals cases e; exact h

/-- PBUF after a command is as `pbufAfter` has it (R50). -/
theorem exec_pbuf {i : Instr} {s t : State} (e : exec i s = .next t) : t.pbuf = pbufAfter i s s.pbuf := by
  by_cases hop : 0x30#8 ≤ i.opcode
  · obtain ⟨-, -, -, hpbuf⟩ := exec_sync_frame hop e
    exact hpbuf
  · cases i
    case wrCtrl d => rcases exec_wrCtrl_next.1 e with ⟨-, rfl⟩ | ⟨-, rfl⟩ <;> rfl
    case nop | softReset | rdCtrl | rdStatus | clrErr | crcInit | crcByte | crcRd | xorInit | xorByte | xorRd =>
      cases e; rfl
    all_goals simp [Instr.opcode] at hop

/-- SYNC_PUSH has a next state in DATA only where the index DCNT exists (R46). -/
theorem dcnt_lt_of_execSyncPush_data {b : Byte} {s t : State} (hs : s.st = .data) (e : execSyncPush b s = .next t) :
    s.dcnt < s.params.maxLen := by
  rcases execSyncPush_next e with
    ⟨hs', -⟩ | ⟨hs', -⟩ | ⟨hs', -⟩ | ⟨hs', -⟩ | ⟨-, u, hu, -⟩ | ⟨hs', -⟩ | ⟨hs', -⟩
  case inr.inr.inr.inr.inl =>
    obtain ⟨hm, -⟩ := pushData_ok.1 hu
    exact hm
  all_goals simp [hs] at hs'

/-- The byte SYNC_PUSH stores goes to an index that exists. -/
theorem exec_keeps_pbufWellFormed {i : Instr} {s t : State} (h : PbufWellFormed s) (e : exec i s = .next t) :
    PbufWellFormed t := by
  obtain ⟨hparams, -⟩ := eachItemChangesOnlyUnderItsCommands i s t e
  rw [PbufWellFormed, exec_pbuf e, hparams]
  by_cases hi : ∃ b, i = .syncPush b
  · obtain ⟨b, rfl⟩ := hi
    by_cases hs : s.st = .data
    · obtain ⟨hwf, hwithin⟩ := h
      rw [pbufAfter, pbufAfterPush_of_data hs]
      exact ⟨Memory.write_wf _ _ hwf, Memory.write_within b hwithin (dcnt_lt_of_execSyncPush_data hs e)⟩
    · rwa [pbufAfter, pbufAfterPush_of_not_data hs]
  · rwa [pbufAfter_of_not_push s _ (not_exists.1 hi)]

/-- Every command keeps the invariant. -/
theorem exec_keeps_machineInvariant {i : Instr} {s t : State} (h : MachineInvariant s) (e : exec i s = .next t) :
    MachineInvariant t := by
  obtain ⟨hbounds, hfields, hctrl, hpbuf⟩ := (machineInvariant_iff s).1 h
  exact (machineInvariant_iff t).2 ⟨exec_keeps_payloadBounds hbounds e, exec_keeps_frameFields hfields e,
    exec_keeps_ctrlReservedZero hctrl e, exec_keeps_pbufWellFormed hpbuf e⟩

/-- Settles O42: an idle port and an illegal command leave the items the invariant speaks of alone, a reset pulse clears them, and
every command keeps it. -/
theorem stepKeepsTheInvariant : Obligations.StepKeepsTheInvariant := by
  intro s t h hstep
  rcases step_next hstep with
    ⟨-, rfl⟩ | ⟨rest, -, rfl⟩ | ⟨w, rest, i, -, -, e⟩ | ⟨w, rest, -, -, rfl⟩
  · exact h
  · obtain ⟨-, -, -, hpbuf⟩ := (machineInvariant_iff s).1 h
    exact (machineInvariant_iff _).2
      ⟨payloadBounds_of_early (.inl rfl), frameFields_cleared rfl rfl rfl rfl, ctrlReservedZero_of_clear rfl, hpbuf⟩
  · exact exec_keeps_machineInvariant (s := { s with inputs := rest }) h e
  · exact h

/-! ### PBUF holds the bytes pushed -/

/-- The payload after a command in state `st` that pushes the bytes `bs`, one or none, from the payload `h` before it. -/
def payloadGrown (bs h : List Byte) : St → List Byte
  | .token => []
  | .data => h ++ bs
  | .waitStart | .seq | .size | .csum | .done | .unused => h

theorem payloadAfter_eq (s : State) (h : List Byte) : payloadAfter s h = payloadGrown (bytePushed s) h s.st := by
  cases hs : s.st <;> simp only [payloadAfter, payloadGrown, hs]

/-- The payload grows by the byte that SYNC_PUSH stores in DATA, and starts anew after TOKEN (R130, R131). -/
theorem execSyncPush_keeps_holdsPayload {b : Byte} {s t : State} {h : List Byte} (hp : HoldsPayload s h)
    (e : execSyncPush b s = .next t) : HoldsPayload t (payloadGrown [b] h s.st) := by
  intro ht
  rcases execSyncPush_next e with
    ⟨hs, rfl⟩ | ⟨hs, rfl⟩ | ⟨hs, rfl⟩ | ⟨hs, rfl⟩ | ⟨hs, u, hu, rfl⟩ | ⟨hs, rfl⟩ | ⟨hs, rfl⟩ <;> rw [hs, payloadGrown]
  · rcases pushWaitStart_cases b s with ⟨-, e⟩ | ⟨-, -, -, e⟩ | ⟨-, -, e⟩ <;> simp [e, hs] at ht
  · rcases pushSeq_cases b s with ⟨-, e⟩ | ⟨-, -, e⟩ | ⟨-, -, e⟩ <;> simp [e, hs] at ht
  · rcases pushSize_cases b s with ⟨-, e⟩ | ⟨-, -, e⟩ | ⟨-, -, e⟩ <;> simp [e, hs] at ht
  · rcases pushToken_cases b s with ⟨-, e⟩ | ⟨-, e⟩
    · rw [e]; rfl
    · simp [e] at ht
  · obtain ⟨hm, rfl⟩ := pushData_ok.1 hu
    have hnext : (s.dcnt + 1#32).toNat = s.dcnt.toNat + 1 := by bv_omega
    have hstored := Memory.readBytes_write_next s.pbuf 0 s.dcnt.toNat b
    rw [Nat.zero_add, hp (.inl hs), ← hnext] at hstored
    exact hstored
  · rw [← hp (.inr (.inl hs))]
    rcases pushCsum_cases b s with ⟨-, -, e⟩ | ⟨-, -, e⟩ | ⟨-, -, e⟩ <;> rw [e] <;> rfl
  · exact hp (.inr (.inr hs))

/-- What pushes no byte and leaves a payload in PBUF leaves the payload it found. -/
theorem holdsPayload_of_no_push {s t : State} {h : List Byte} (hp : HoldsPayload s h)
    (hkeep : t.st = .data ∨ t.st = .csum ∨ t.st = .done → t.st = s.st ∧ t.pbuf = s.pbuf ∧ t.dcnt = s.dcnt) :
    HoldsPayload t (payloadGrown [] h s.st) := by
  intro ht
  obtain ⟨hst, hpbuf, hdcnt⟩ := hkeep ht
  rw [hst] at ht
  rw [hpbuf, hdcnt, hp ht]
  rcases ht with hs | hs | hs <;> simp [payloadGrown, hs]

theorem bytePushed_of_idle {s : State} (h : s.inputs = []) : bytePushed s = [] := by simp [bytePushed, h]

theorem bytePushed_of_reset {s : State} {rest : List HostInput} (h : s.inputs = .reset :: rest) : bytePushed s = [] := by
  simp [bytePushed, h]

theorem bytePushed_of_push {s : State} {w : Half} {rest : List HostInput} {b : Byte} (h : s.inputs = .command w :: rest)
    (hd : decode w = some (.syncPush b)) : bytePushed s = [b] := by
  simp [bytePushed, h, hd]

theorem bytePushed_of_no_push {s : State} {w : Half} {rest : List HostInput} (h : s.inputs = .command w :: rest)
    (hd : ∀ b, decode w ≠ some (.syncPush b)) : bytePushed s = [] := by
  simp [bytePushed, h]

/-- A step takes the payload on by the byte it pushes. -/
theorem step_keeps_holdsPayload {s t : State} {h : List Byte} (hp : HoldsPayload s h) (hstep : step s = .next t) :
    HoldsPayload t (payloadAfter s h) := by
  rw [payloadAfter_eq]
  rcases step_next hstep with
    ⟨hin, rfl⟩ | ⟨rest, hin, rfl⟩ | ⟨w, rest, i, hin, hdec, e⟩ | ⟨w, rest, hin, hdec, rfl⟩
  · rw [bytePushed_of_idle hin]
    exact holdsPayload_of_no_push hp fun _ => ⟨rfl, rfl, rfl⟩
  · rw [bytePushed_of_reset hin]
    exact holdsPayload_of_no_push hp fun ht => by simp [hardReset] at ht
  · by_cases hi : ∃ b, i = .syncPush b
    · obtain ⟨b, rfl⟩ := hi
      rw [bytePushed_of_push hin hdec]
      exact execSyncPush_keeps_holdsPayload (s := { s with inputs := rest }) hp e
    · have hno : ∀ b, i ≠ .syncPush b := not_exists.1 hi
      rw [bytePushed_of_no_push hin fun b => by simpa [hdec] using hno b]
      exact holdsPayload_of_no_push hp (exec_keeps_payload (s := { s with inputs := rest }) hno e)
  · rw [bytePushed_of_no_push hin fun b => by simp [hdec]]
    exact holdsPayload_of_no_push hp fun _ => ⟨rfl, rfl, rfl⟩

/-- Settles O60: in DONE the DCNT bytes stored are LENR by R135(d), and they are what the host sees of the frame. -/
theorem heldPayloadIsTheBytesPushed : Obligations.HeldPayloadIsTheBytesPushed := by
  refine ⟨fun s t h _ => step_keeps_holdsPayload, fun s h hinv hp hdone => ?_⟩
  obtain ⟨⟨-, -, -, hcount, -⟩, -⟩ := hinv
  have hheld : s.pbuf.readBytes 0 s.lenr.toNat = h := by rw [← hcount (.inr hdone), hp (.inr (.inr hdone))]
  exact ⟨by rw [← hheld, Memory.readBytes_length], heldFrame_eq_some.2 ⟨hdone, hheld, rfl, rfl, rfl⟩⟩

end Sys2Proof.Machine
end

section
/-! PROOFS. The synchronizer's commands one by one (spec/42_sync.md R125 to R142): SYNC_PUSH in each state, the other commands,
and where a command stops. -/

namespace Sys2Proof.Machine

/-! ### SYNC_PUSH, state by state -/

theorem execSyncPush_of_waitStart {s : State} (hst : s.st = .waitStart) (b : Byte) :
    execSyncPush b s = .next (respond 0#32 (pushWaitStart b s)) := by
  simp [execSyncPush, hst, dataByte]

theorem execSyncPush_of_token {s : State} (hst : s.st = .token) (b : Byte) :
    execSyncPush b s = .next (respond 0#32 (pushToken b s)) := by
  simp [execSyncPush, hst, dataByte]

/-- In DONE the byte is dropped (R134). -/
theorem execSyncPush_of_done {s : State} (hst : s.st = .done) (b : Byte) :
    execSyncPush b s = .next { s with err := s.err ||| 0x10#7, resps := s.resps ++ [0#32] } := by
  have h : execSyncPush b s = .next (respond 0#32 (pushDone s)) := by simp [execSyncPush, hst]
  exact h

/-- A garbage byte is counted, and raises ERR_SYNC when the window is not 0 and reached (R126). -/
theorem execSyncPush_garbage {s : State} {b : Byte} (hst : s.st = .waitStart) (hb : b ≠ 0x1B#8) :
    execSyncPush b s = .next
      { s with
        gcnt := sat32Inc s.gcnt
        err := if s.params.resyncWindow ≠ 0#32 ∧ s.params.resyncWindow ≤ sat32Inc s.gcnt then s.err ||| 0x08#7 else s.err
        resps := s.resps ++ [0#32] } := by
  rw [execSyncPush_of_waitStart hst]
  rcases pushWaitStart_cases b s with ⟨heq, -⟩ | ⟨-, hw, hg, e⟩ | ⟨-, hw, e⟩
  · exact absurd heq hb
  · rw [e, if_pos ⟨hw, hg⟩]; rfl
  · rw [e, if_neg hw]; rfl

/-- Settles O26: the START byte opens a frame, every other byte is garbage. -/
theorem pushInWaitStart : Obligations.PushInWaitStart := by
  intro b s hst
  refine ⟨fun hb => ?_, fun hb => ⟨_, sat32Inc_toNat s.gcnt, execSyncPush_garbage hst hb⟩⟩
  subst hb
  refine (execSyncPush_start hst).trans ?_
  simp [taken, opened, startByte, zeros]

/-- Settles O27: the byte that a sequence byte replaces stands beside the one that stays. -/
theorem pushInSeq : Obligations.PushInSeq := by
  intro b s hst
  refine ⟨fun hv hf => ?_, fun hv hf => ?_, fun hv => execSyncPush_seq_only hst hv b⟩
  · rw [← setByte_half_0]
    exact execSyncPush_seq_first hst hv hf b
  · rw [← setByte_half_1]
    exact execSyncPush_seq_second hst hv hf rfl

section
variable {s : State} {b : Byte} {l : Word} (hst : s.st = .size)
include hst

/-- A length byte that is not the last one goes to its place and FCNT counts up (R129). -/
theorem execSyncPush_size_counts {k : BitVec 2} (hlast : lastLenByte s = false) (hl : takeLenByte b s = l)
    (hk : s.fcnt + 1#2 = k) : execSyncPush b s = .next { taken [b] s with lenr := l, fcnt := k } := by
  subst hl hk
  rw [execSyncPush_of_size hst]
  rcases pushSize_cases b s with ⟨-, e⟩ | ⟨hlast', -⟩ | ⟨hlast', -⟩
  · rw [e]; rfl
  all_goals simp [hlast] at hlast'

/-- The last length byte is followed by the ceiling check (R129, R121). -/
theorem execSyncPush_size_checks (hlast : lastLenByte s = true) (hl : takeLenByte b s = l) :
    execSyncPush b s = .next
      (if l ≤ s.params.maxLen then { taken [b] s with lenr := l, fcnt := 0#2, st := .token }
       else { taken [b] s with lenr := l, fcnt := 0#2, st := .waitStart, err := s.err ||| 0x02#7 }) := by
  subst hl
  rw [execSyncPush_of_size hst]
  rcases pushSize_cases b s with ⟨hlast', -⟩ | ⟨-, hle, e⟩ | ⟨-, hgt, e⟩
  · simp [hlast] at hlast'
  · rw [e, if_pos hle]; rfl
  · rw [e, if_neg (BitVec.not_le.2 hgt)]; rfl

end

/-- Settles O28: FCNT tells which byte of LENR is replaced and whether it is the last one. -/
theorem pushInSize : Obligations.PushInSize := by
  intro b s hst s₁ hs₁
  subst hs₁
  have htake (c : Bool) (hv : variantC s = c) :
      takeLenByte b s = if c then setByte (if s.fcnt = 0#2 then 1 else 0) b s.lenr else setByte s.fcnt.toNat b s.lenr := by
    rw [takeLenByte, hv]
  have hlast (c : Bool) (hv : variantC s = c) : lastLenByte s = if c then s.fcnt == 1#2 else s.fcnt == 3#2 := by
    rw [lastLenByte, hv]
  refine ⟨fun hv hf => ?_, fun hv hf => ?_, fun hv hf => ?_, fun hv hf l hl => ?_, fun hv hf => ?_, fun hv hf l hl => ?_⟩
  · refine execSyncPush_size_counts hst (by simp [hlast _ hv, hf]) ?_ (by simp [hf])
    simp [htake _ hv, hf, setByte_word_0]
  · refine execSyncPush_size_counts hst (by simp [hlast _ hv, hf]) ?_ (by simp [hf])
    simp [htake _ hv, hf, setByte_word_1]
  · refine execSyncPush_size_counts hst (by simp [hlast _ hv, hf]) ?_ (by simp [hf])
    simp [htake _ hv, hf, setByte_word_2]
  · refine execSyncPush_size_checks hst (by simp [hlast _ hv, hf]) ?_
    simp [htake _ hv, hf, setByte_word_3, hl]
  · refine execSyncPush_size_counts hst (by simp [hlast _ hv, hf]) ?_ (by simp [hf])
    simp [htake _ hv, hf, setByte_word_1]
  · refine execSyncPush_size_checks hst (by simp [hlast _ hv, hf]) ?_
    simp [htake _ hv, hf, setByte_word_0, hl]

/-- Settles O29: `pushToken_cases`. -/
theorem pushInToken : Obligations.PushInToken := by
  intro b s hst
  refine ⟨fun hb => ?_, fun hb => ?_⟩
  · subst hb
    exact execSyncPush_token hst
  · refine (execSyncPush_of_token hst b).trans ?_
    rcases pushToken_cases b s with ⟨heq, -⟩ | ⟨-, e⟩
    · exact absurd heq hb
    · rw [e]; rfl

/-- Settles O30: PBUF is written at DCNT, and a read after a write differs there only. -/
theorem pushInData : Obligations.PushInData := by
  intro b s hst hm
  refine ⟨s.pbuf.write s.dcnt.toNat b, Memory.read_write_same .., fun a ha => Memory.read_write_other _ b ha,
    Memory.write_wf _ _, ?_⟩
  rw [← hst]
  exact execSyncPush_data hst hm b

/-- The reserved value of variant C, where there is one (R133). -/
theorem isEvent_variantC_any (p : Params) (q : Half) :
    isEvent p true q = p.eventSeqC.any fun e => q == e.setWidth 16 := by
  cases he : p.eventSeqC <;> simp [isEvent, he]

/-- The last checksum byte delivers the frame, by its residue and its sequence (R132, R133). -/
theorem execSyncPush_csum_delivers {s : State} {b : Byte} {ok evt : Bool} (hst : s.st = .csum)
    (h : ¬ (variantC s = false ∧ s.fcnt = 0#2)) (hok : residueZero (taken [b] s) = ok)
    (hevt : isEvent s.params (variantC s) s.seqr = evt) :
    execSyncPush b s = .next
      { taken [b] s with
        fcnt := 0#2, cksOk := ok, isEvt := evt, rptr := 0#32, st := .done
        err := if ok = true then s.err else s.err ||| 0x01#7 } := by
  subst hok hevt
  exact execSyncPush_csum_last hst h b

/-- Settles O31: the last checksum byte delivers the frame, and the residue and the reserved value are those of the variant. -/
theorem pushInCsum : Obligations.PushInCsum := by
  intro b s hst r x hr hx
  subst hr hx
  have hzero : residueZero (taken [b] s) =
      if variantC s then s.rxor ^^^ b == 0x00#8 else crc16Step s.params.crcPolyR s.rcrc b == 0x0000#16 := rfl
  refine ⟨fun hv hf => execSyncPush_csum_first hst hv hf b, fun hv hf => ?_, fun hv => ?_⟩
  · change variantC s = false at hv
    have hok : residueZero (taken [b] s) = decide (crc16Step s.params.crcPolyR s.rcrc b = 0x0000#16) := by
      rw [hzero, hv]; rfl
    have hevt : isEvent s.params (variantC s) s.seqr = decide (s.seqr = 0xFFFF#16) := by rw [hv]; rfl
    have hrun := execSyncPush_csum_delivers hst (fun h => hf h.2) hok hevt
    simp only [decide_eq_true_eq] at hrun
    exact hrun
  · change variantC s = true at hv
    have hok : residueZero (taken [b] s) = decide (s.rxor ^^^ b = 0x00#8) := by rw [hzero, hv]; rfl
    have hevt : isEvent s.params (variantC s) s.seqr = s.params.eventSeqC.any fun e => s.seqr == e.setWidth 16 := by
      rw [hv, isEvent_variantC_any]
    have hrun := execSyncPush_csum_delivers hst (fun h => by simp [hv] at h) hok hevt
    simp only [decide_eq_true_eq] at hrun
    exact hrun

/-- Settles O32: the rule of DONE is the same for every byte. -/
theorem pushInDone : Obligations.PushInDone :=
  fun b _ hst => execSyncPush_of_done hst b

/-! ### The other commands -/

/-- Settles O33: D has no part, and the assignments are those of `syncClear`. -/
theorem syncResetAbandonsTheFrame : Obligations.SyncResetAbandonsTheFrame :=
  ⟨fun _ => decode_append.2 ⟨rfl, nofun⟩, fun _ => rfl⟩

/-- Settles O34: D has no part; in DONE and outside it by `exec_syncRelease_next`. -/
theorem syncReleaseLeavesDone : Obligations.SyncReleaseLeavesDone :=
  ⟨fun _ => decode_append.2 ⟨rfl, nofun⟩, fun _ =>
    ⟨fun hd => exec_syncRelease_next.2 (.inl ⟨hd, rfl⟩), fun hd => exec_syncRelease_next.2 (.inr ⟨hd, rfl⟩)⟩⟩

/-- The upper bits of a narrow register are 0. -/
theorem extractLsb'_of_lt {n : Nat} {v : BitVec n} {a m : Nat} (h : v.toNat < 2 ^ a) : v.extractLsb' a m = 0#m := by
  have hzero : v.toNat / 2 ^ a = 0 := Nat.div_eq_of_lt h
  exact BitVec.eq_of_toNat_eq (by simp [Nat.shiftRight_eq_div_pow, hzero])

/-- Settles O35: D has no part; in variant C the sequence is narrow by R135(h). -/
theorem readSeqAnswersSeqr : Obligations.ReadSeqAnswersSeqr := by
  refine ⟨fun _ => decode_append.2 ⟨rfl, nofun⟩, fun _ => rfl, fun s hinv hv => ?_⟩
  obtain ⟨-, -, -, -, -, -, hnarrow⟩ := hinv
  obtain ⟨-, hseqr⟩ := hnarrow hv
  exact extractLsb'_of_lt (by rwa [BitVec.toNat_setWidth_of_le (by decide)])

/-- Settles O36: D has no part, and only the response is written. -/
theorem readLenAnswersLenr : Obligations.ReadLenAnswersLenr :=
  ⟨fun _ => decode_append.2 ⟨rfl, nofun⟩, fun _ => rfl⟩

/-- Settles O37: D has no part; a pointer below LENR is below the ceiling too. -/
theorem readPayloadAnswersTheNextByte : Obligations.ReadPayloadAnswersTheNextByte := by
  refine ⟨fun _ => decode_append.2 ⟨rfl, nofun⟩, fun s hle hd hlt => ?_, fun s hr => ?_⟩
  · exact exec_rdPayload_next.2 (.inl ⟨⟨hd, hlt⟩, Nat.lt_of_lt_of_le hlt hle, rfl⟩)
  · exact exec_rdPayload_next.2 (.inr ⟨hr, rfl⟩)

/-- Settles O38: D has no part, and RPTR is the one register written. -/
theorem readPointerClear : Obligations.ReadPointerClear :=
  ⟨fun _ => decode_append.2 ⟨rfl, nofun⟩, fun _ => rfl⟩

/-- Settles O39: D has no part; outside WAIT_START the count is 0 by R135(f). -/
theorem readGarbageCount : Obligations.ReadGarbageCount := by
  refine ⟨fun _ => decode_append.2 ⟨rfl, nofun⟩, fun _ => rfl, fun s hinv => ?_⟩
  obtain ⟨-, -, -, -, hgarbage, -⟩ := hinv
  exact hgarbage

/-! ### Where a command stops -/

/-- DATA stops where DCNT is outside PBUF. -/
theorem pushData_error {b : Byte} {s : State} (h : ¬ s.dcnt < s.params.maxLen) :
    pushData b s = .error .pbufOutOfRange := by
  have hw : memWrite s.dcnt b (acc b s) = .error .pbufOutOfRange := memWrite_error.2 ⟨h, rfl⟩
  rw [pushData, hw]

/-- SYNC_PUSH stops in the unused state, and in DATA where DCNT is outside PBUF. -/
theorem execSyncPush_fault {b : Byte} {s : State} {f : Fault} :
    execSyncPush b s = .fault f ↔
      (s.st = .unused ∧ f = .stUnused) ∨ (s.st = .data ∧ s.params.maxLen ≤ s.dcnt ∧ f = .pbufOutOfRange) := by
  cases hs : s.st
  case data =>
    by_cases hm : s.dcnt < s.params.maxLen
    · simp [execSyncPush_data hs hm, BitVec.not_le.2 hm]
    · simp [execSyncPush, hs, pushData_error hm, BitVec.not_lt.1 hm, eq_comm]
  all_goals simp [execSyncPush, hs, eq_comm]

/-- RD_PAYLOAD stops where it has a byte to read and RPTR is outside PBUF. -/
theorem exec_rdPayload_fault {s : State} {f : Fault} :
    exec .rdPayload s = .fault f ↔
      s.st = .done ∧ s.rptr < s.lenr ∧ s.params.maxLen ≤ s.rptr ∧ f = .pbufOutOfRange := by
  simp only [exec, execRdPayload]
  by_cases hr : s.st = .done ∧ s.rptr < s.lenr
  · by_cases hm : s.rptr < s.params.maxLen
    · simp [hr, memRead_ok.2 ⟨hm, rfl⟩, BitVec.not_le.2 hm]
    · simp [hr, memRead_error.2 ⟨hm, rfl⟩, BitVec.not_lt.1 hm, eq_comm]
  · simp only [if_neg hr, reduceCtorEq, false_iff]
    rintro ⟨hd, hlt, -⟩
    exact hr ⟨hd, hlt⟩

/-- Every outcome of a command is a next state or a fault. -/
theorem exec_not_refused (i : Instr) (s : State) (r : Refusal) : exec i s ≠ .refused r := by
  cases i
  case syncPush b =>
    cases hs : s.st
    case data =>
      simp only [exec, execSyncPush, hs]
      split <;> nofun
    all_goals simp [exec, execSyncPush, hs]
  case rdPayload =>
    simp only [exec, execRdPayload]
    split
    · split <;> nofun
    · nofun
  all_goals nofun

/-- Settles O40: only SYNC_PUSH and RD_PAYLOAD can stop, and a state within the payload bounds has a next state. -/
theorem stopsOnlyWhereNoRuleApplies : Obligations.StopsOnlyWhereNoRuleApplies := by
  refine ⟨fun i s f => ?_, fun i s f hinv => ?_, exec_not_refused⟩
  · cases i
    case syncPush b =>
      refine execSyncPush_fault.trans ?_
      simp
    case rdPayload =>
      refine exec_rdPayload_fault.trans ?_
      simp
    all_goals exact ⟨nofun, by simp⟩
  · obtain ⟨hsync, -⟩ := hinv
    obtain ⟨t, ht⟩ := exec_next_of_payloadBounds i (payloadBounds_of_invariant hsync)
    rw [ht]
    nofun

end Sys2Proof.Machine
end

section
/-! PROOFS. Byte strings through the synchronizer (spec/42_sync.md): the residue against the checksum, garbage, whole frames, the
held frame and its payload, and the bound on a frame's size. -/

namespace Sys2Proof.Machine

/-! ### A residue of zero -/

/-- With the polynomial's top bit 1, the bits that fell out of the register show at its upper end: where that is 0, no 1 fell
out. -/
theorem low_zero_of_crcShifts {poly : Half} (hp : poly.getLsbD 15 = true) {k : Nat} {r : Half} (hk : k ≤ 16)
    (h : ∀ i < k, (crcShifts poly k r).getLsbD (15 - i) = false) : ∀ i < k, r.getLsbD i = false := by
  induction k generalizing r with
  | zero => exact nofun
  | succ k ih =>
    have hrest : ∀ i < k, (crcShift poly r).getLsbD i = false :=
      ih (by omega) fun i hi => h i (by omega)
    have hlow : r.getLsbD 0 = false := by
      have htop := h k (by omega)
      rw [crcShifts_succ, crcShifts_of_low_zero hrest, BitVec.getLsbD_ushiftRight, show k + (15 - k) = 15 by omega,
        crcShift_top hp] at htop
      exact htop
    intro i hi
    cases i with
    | zero => exact hlow
    | succ i =>
      have hbit := hrest i (by omega)
      rw [crcShift, hlow] at hbit
      simpa [Nat.add_comm] using hbit

/-- A step clears the upper byte of the register only when the byte taken is the register's low byte. -/
theorem crc16Step_eq_setWidth {poly : Half} (hp : poly.getLsbD 15 = true) {c : Half} {x y : Byte}
    (h : crc16Step poly c x = y.setWidth 16) : x = byteOf 0 c ∧ y = byteOf 1 c := by
  have hlow : ∀ i < 8, (c ^^^ x.setWidth 16).getLsbD i = false := by
    refine low_zero_of_crcShifts hp (by decide) fun i hi => ?_
    rw [← crc16Step, h, BitVec.getLsbD_setWidth, BitVec.getLsbD_of_ge y _ (by omega), Bool.and_false]
  have hx : x = byteOf 0 c := by
    refine BitVec.eq_of_getLsbD_eq fun i hi => ?_
    have hbit : c.getLsbD i = x.getLsbD i := by simpa [show i < 16 by omega] using hlow i hi
    simpa [byteOf, hi] using hbit.symm
  refine ⟨hx, ?_⟩
  rw [hx, crc16Step_low_byte] at h
  refine BitVec.eq_of_getLsbD_eq fun i hi => ?_
  have hbit : c.getLsbD (8 + i) = y.getLsbD i := by simpa [show i < 16 by omega] using congrArg (·.getLsbD i) h
  simpa [byteOf, hi] using hbit.symm

/-- A step gives 0 only when the register is the byte taken. -/
theorem crc16Step_eq_zero {poly : Half} (hp : poly.getLsbD 15 = true) {c : Half} {b : Byte}
    (h : crc16Step poly c b = 0x0000#16) : c = b.setWidth 16 := by
  have hzero : crcShifts poly 8 0x0000#16 = 0x0000#16 := (crcShifts_of_low_zero (by simp)).trans (by simp)
  have hxor : c ^^^ b.setWidth 16 = 0x0000#16 := crcShifts_injective hp 8 (h.trans hzero.symm)
  exact BitVec.xor_eq_zero_iff.1 hxor

/-- Settles O19: the last two steps are taken back one by one; an XOR is 0 when its two sides are the same. -/
theorem zeroResidueIffChecksumMatches : Obligations.ZeroResidueIffChecksumMatches := by
  refine ⟨fun p m x y hpoly => ⟨fun h => ?_, ?_⟩, fun m x => ?_⟩
  · have hp : p.crcPolyR.getLsbD 15 = true := by rw [hpoly]; decide
    rw [← List.singleton_append, ← List.append_assoc, crc16_append_one, crc16_append_one] at h
    exact crc16Step_eq_setWidth hp (crc16Step_eq_zero hp h)
  · rintro ⟨rfl, rfl⟩
    exact crc16_append_crcBytes p m
  · rw [xor8_append_one, BitVec.xor_eq_zero_iff, eq_comm]

/-! ### Garbage -/

/-- The state after `m` garbage bytes have brought GCNT to `n` (R126). -/
def garbageTaken (n : Word) (m : List Byte) (s : State) : State :=
  { s with
    gcnt := n
    err := if s.params.resyncWindow ≠ 0#32 ∧ m ≠ [] ∧ s.params.resyncWindow ≤ n then s.err ||| 0x08#7 else s.err
    resps := s.resps ++ zeros m.length }

theorem execSyncPush_garbageTaken {s : State} {b : Byte} (hst : s.st = .waitStart) (hb : b ≠ 0x1B#8) :
    execSyncPush b s = .next (garbageTaken (sat32Inc s.gcnt) [b] s) := by
  rw [execSyncPush_garbage hst hb, garbageTaken]
  simp [zeros]

/-- GCNT only grows, so ERR_SYNC is raised in the end exactly when the last count reaches the window. -/
theorem garbageTaken_cons {n k : Word} {m : List Byte} (hle : k ≤ n) (hm : m = [] → n = k) (b : Byte) (s : State) :
    garbageTaken n m (garbageTaken k [b] s) = garbageTaken n (b :: m) s := by
  have hresps : s.resps ++ zeros [b].length ++ zeros m.length = s.resps ++ zeros (b :: m).length := by
    simp [zeros, List.replicate_succ]
  simp only [garbageTaken, hresps]
  congr 1
  by_cases hk : s.params.resyncWindow ≤ k
  · have hn : s.params.resyncWindow ≤ n := Nat.le_trans hk hle
    by_cases hw : s.params.resyncWindow = 0#32 <;> simp [hk, hn, hw, BitVec.or_assoc]
  · by_cases hnil : m = []
    · simp [hnil, hm hnil, hk]
    · simp [hnil, hk]

/-- A run of garbage, by induction over it. -/
theorem pushAll_garbage {m : List Byte} {s : State} {n : Word} (hst : s.st = .waitStart) (hm : ∀ b ∈ m, b ≠ 0x1B#8)
    (hn : n.toNat = min (s.gcnt.toNat + m.length) (2 ^ 32 - 1)) : pushAll m s = .next (garbageTaken n m s) := by
  induction m generalizing s with
  | nil =>
    have hgcnt : s.gcnt = n := BitVec.eq_of_toNat_eq (by have := s.gcnt.isLt; rw [hn, List.length_nil]; omega)
    have hstay : garbageTaken n [] s = s := by simp [garbageTaken, zeros, ← hgcnt]
    rw [hstay]
    rfl
  | cons b m ih =>
    have hcount := sat32Inc_toNat s.gcnt
    rw [List.length_cons] at hn
    have hle : sat32Inc s.gcnt ≤ n := by rw [BitVec.le_def]; omega
    have hlast (hnil : m = []) : n = sat32Inc s.gcnt :=
      BitVec.eq_of_toNat_eq (by rw [hn, hcount, hnil, List.length_nil])
    refine pushAll_cons (execSyncPush_garbageTaken hst (hm b (List.mem_cons_self ..))) ?_
    rw [← garbageTaken_cons hle hlast]
    refine ih (by exact hst) (fun c hc => hm c (List.mem_cons_of_mem _ hc)) ?_
    show n.toNat = min ((sat32Inc s.gcnt).toNat + m.length) (2 ^ 32 - 1)
    omega

/-- Settles O54: `pushAll_garbage`, with the state it ends in written out. -/
theorem garbageIsDiscardedAndCounted : Obligations.GarbageIsDiscardedAndCounted :=
  fun _ _ hst hm _ hn => pushAll_garbage hst hm hn

/-! ### Whole frames -/

/-- What the host finds after a frame `m` with residue `ok`. -/
theorem delivered_of_residue {s : State} {q : Half} {payload m : List Byte} {ok evt : Bool}
    (hrun : pushAll m s = .next (delivered (frameTaken q payload m s))) (hlen : payload.length ≤ s.params.maxLen.toNat)
    (hok : residueZero (frameTaken q payload m s) = ok) (hevt : isEvent s.params (variantC s) q = evt) :
    ∃ t : State, pushAll m s = .next t ∧
      heldFrame t = some { sequence := some q, payload := payload, checksumValid := ok, isEvent := evt } ∧
      t.err = if ok then s.err else s.err ||| 0x01#7 := by
  subst hok hevt
  exact ⟨_, hrun, heldFrame_delivered hlen, rfl⟩

/-- The reserved value of variant A (R73, R133). -/
theorem isEvent_variantA (p : Params) (q : Half) : isEvent p false q = decide (q = 0xFFFF#16) := rfl

/-- Settles O53: a frame with any checksum bytes is delivered, and its residue is the checksum of all its bytes. -/
theorem frameWithAnyChecksumIsDelivered : Obligations.FrameWithAnyChecksumIsDelivered := by
  refine ⟨fun s q payload x y ok hv hst hlen hok => ?_, fun s q payload x ok hv hst hlen h16 hok => ?_⟩
  · change variantC s = false at hv
    refine delivered_of_residue (pushAll_frame_variantA hv hst hlen q x y) hlen ?_ ?_
    · rw [residueZero_frameTaken, hv, hok]; rfl
    · rw [hv, isEvent_variantA]
  · change variantC s = true at hv
    refine delivered_of_residue (pushAll_frame_variantC hv hst hlen h16 q x) hlen ?_ ?_
    · rw [residueZero_frameTaken, hv, hok]; rfl
    · rw [hv, isEvent_variantC]

/-- Garbage without a START leaves the synchronizer waiting, and without a window it raises nothing (R119, R120). -/
theorem exists_pushAll_garbage {m : List Byte} {s : State} (hst : s.st = .waitStart) (hm : ∀ b ∈ m, b ≠ 0x1B#8) :
    ∃ u : State, pushAll m s = .next u ∧ u.st = .waitStart ∧ u.ctrl = s.ctrl ∧ u.params = s.params ∧
      (s.params.resyncWindow = 0#32 → u.err = s.err) := by
  have hn : (BitVec.ofNat 32 (min (s.gcnt.toNat + m.length) (2 ^ 32 - 1))).toNat =
      min (s.gcnt.toNat + m.length) (2 ^ 32 - 1) := by
    rw [BitVec.toNat_ofNat]
    omega
  exact ⟨_, pushAll_garbage hst hm hn, hst, rfl, rfl, fun hw => if_neg fun h => h.1 hw⟩

/-- The residue of a variant A frame is the CRC of a string that ends in its own CRC (R96). -/
theorem residueZero_frameA {s : State} (hv : variantC s = false) (q : Half) (payload : List Byte) :
    residueZero (frameTaken q payload (frameA s.params q payload) s) = true := by
  rw [residueZero_frameTaken, frameA, crc16_append_crcBytes, hv]
  rfl

/-- Settles O55: the garbage leads to a state in WAIT_START, from which the frame is delivered; START clears GCNT. -/
theorem frameAfterGarbageIsDelivered : Obligations.FrameAfterGarbageIsDelivered := by
  intro s g q payload hv hst hg hlen
  obtain ⟨u, hgarbage, hstu, hctrl, hparams, herr⟩ := exists_pushAll_garbage hst hg
  have hvu : variantC u = false := (variantC_congr hctrl).trans hv
  rw [← hparams] at hlen herr ⊢
  have hres := residueZero_frameA hvu q payload
  have hrun : pushAll (frameA u.params q payload) u =
      .next (delivered (frameTaken q payload (frameA u.params q payload) u)) :=
    pushAll_frame_variantA hvu hstu hlen q _ _
  refine ⟨_, pushAll_append hgarbage hrun, ?_, rfl, fun hw => ?_⟩
  · rw [heldFrame_delivered hlen, hres, hvu, isEvent_variantA]
  · exact (if_pos hres).trans (herr hw)

/-! ### The held frame -/

/-- Settles O56: by induction over the bytes, each dropped by the rule of DONE. -/
theorem heldFrameBlocksTheByteStream : Obligations.HeldFrameBlocksTheByteStream := by
  intro s bs hst
  induction bs generalizing s with
  | nil => simp [zeros]; rfl
  | cons b bs ih =>
    refine pushAll_cons (execSyncPush_of_done hst b) ((ih _ (by exact hst)).trans ?_)
    simp [zeros, List.replicate_succ, BitVec.or_assoc]

/-- The state after `n` payload bytes have been read out from RPTR up. -/
def readOut (n : Nat) (s : State) : State :=
  { s with
    rptr := s.rptr + BitVec.ofNat 32 n
    resps := s.resps ++ (s.pbuf.readBytes s.rptr.toNat n).map (·.setWidth 32) }

/-- Commands of one kind, and one more of it (R201). -/
theorem issueAll_replicate_succ {i : Instr} {n : Nat} {s t u : State}
    (h : issueAll (words (List.replicate n i)) s = .next t) (hi : exec i t = .next u) :
    issueAll (words (List.replicate (n + 1) i)) s = .next u := by
  rw [List.replicate_succ', words, List.map_append, ← words, issueAll_append_next h]
  exact issueAll_words_cons hi []

/-- In DONE payload bytes are answered in order from RPTR up (R139), by induction over their number. -/
theorem issueAll_rdPayload {s : State} {n : Nat} (hst : s.st = .done) (hle : s.lenr ≤ s.params.maxLen)
    (hn : s.rptr.toNat + n ≤ s.lenr.toNat) :
    issueAll (words (List.replicate n .rdPayload)) s = .next (readOut n s) := by
  induction n with
  | zero => simp [words, readOut]
  | succ n ih =>
    have hrptr : (s.rptr + BitVec.ofNat 32 n).toNat = s.rptr.toNat + n := by
      have := s.lenr.isLt
      rw [BitVec.toNat_add, BitVec.toNat_ofNat]
      omega
    have hlt : s.rptr + BitVec.ofNat 32 n < s.lenr := by rw [BitVec.lt_def, hrptr]; omega
    refine issueAll_replicate_succ (ih (by omega)) ?_
    refine exec_rdPayload_next.2 (.inl ⟨⟨hst, hlt⟩, Nat.lt_of_lt_of_le hlt hle, ?_⟩)
    have hnext : s.rptr + BitVec.ofNat 32 (n + 1) = s.rptr + BitVec.ofNat 32 n + 1#32 := by
      rw [BitVec.add_assoc, BitVec.ofNat_add]
    simp only [readOut, respond, hnext, hrptr, Memory.readBytes_succ, List.map_append, List.append_assoc]
    rfl

/-- Settles O57: from RPTR = 0 the LENR bytes are the whole payload, and then RPTR is no longer below LENR. -/
theorem payloadReadsOutInOrder : Obligations.PayloadReadsOutInOrder := by
  intro s payload hst hr hle hp
  have hrun : issueAll (words (List.replicate s.lenr.toNat .rdPayload)) s = .next (readOut s.lenr.toNat s) :=
    issueAll_rdPayload hst hle (by simp [hr])
  have hend : readOut s.lenr.toNat s = { s with rptr := s.lenr, resps := s.resps ++ payload.map (·.setWidth 32) } := by
    simp [readOut, hr, ← hp]
  rw [hend] at hrun
  refine ⟨hrun, issueAll_replicate_succ hrun (exec_rdPayload_next.2 (.inr ⟨fun h => ?_, rfl⟩))⟩
  exact absurd h.2 (Nat.lt_irrefl _)

/-! ### The bound on a frame -/

/-- The bytes that the sequence field and the checksum still take at index `k`: two before the first byte of variant A (R128,
R132). -/
def shortFieldLeft (c : Bool) (k : BitVec 2) : Nat := if c = false ∧ k = 0#2 then 2 else 1

/-- The index of the last length byte (R129). -/
def lastLenIndex (c : Bool) : BitVec 2 := if c then 1#2 else 3#2

/-- The bytes that the length field still takes at index `k` (R129). -/
def lenFieldLeft (c : Bool) (k : BitVec 2) : Nat := (lastLenIndex c - k).toNat + 1

/-- A bound on the bytes that a state of the synchronizer still takes, with FCNT at `k` and `n` payload bytes to come. -/
def bytesLeftIn (c : Bool) (maxLen : Nat) (k : BitVec 2) (n : Nat) : St → Nat
  | .waitStart | .done | .unused => 0
  | .seq => shortFieldLeft c k + (sizeBytes c + (1 + (maxLen + csumBytes c)))
  | .size => lenFieldLeft c k + (1 + (maxLen + csumBytes c))
  | .token => 1 + (maxLen + csumBytes c)
  | .data => n + csumBytes c
  | .csum => shortFieldLeft c k

/-- A bound on the bytes from a state to the end of its frame, 0 where no frame is in progress (R121). -/
def bytesLeft (s : State) : Nat :=
  bytesLeftIn (variantC s) s.params.maxLen.toNat s.fcnt (s.lenr.toNat - s.dcnt.toNat) s.st

theorem shortFieldLeft_pos (c : Bool) (k : BitVec 2) : 0 < shortFieldLeft c k := by
  unfold shortFieldLeft
  split <;> omega

theorem shortFieldLeft_zero (c : Bool) : shortFieldLeft c 0#2 = csumBytes c := by cases c <;> rfl

theorem lenFieldLeft_zero (c : Bool) : lenFieldLeft c 0#2 = sizeBytes c := by cases c <;> rfl

theorem lenFieldLeft_pos (c : Bool) (k : BitVec 2) : 0 < lenFieldLeft c k := Nat.succ_pos _

/-- A length byte that is not the last one leaves one less. -/
theorem lenFieldLeft_next : ∀ (c : Bool) (k : BitVec 2), k ≠ lastLenIndex c → lenFieldLeft c (k + 1#2) < lenFieldLeft c k := by
  decide

theorem lastLenByte_eq (s : State) : lastLenByte s = (s.fcnt == lastLenIndex (variantC s)) := by
  unfold lastLenByte lastLenIndex
  cases variantC s <;> rfl

/-- Only WAIT_START and DONE take no more bytes of a frame. -/
theorem bytesLeft_eq_zero {s : State} (h : PayloadBounds s) (hz : bytesLeft s = 0) : s.st = .waitStart ∨ s.st = .done := by
  obtain ⟨hst, -, -, -⟩ := h
  have hcsum : 0 < csumBytes (variantC s) := by cases variantC s <;> decide
  have hshort := shortFieldLeft_pos (variantC s) s.fcnt
  cases hs : s.st <;> simp only [bytesLeft, bytesLeftIn, hs] at hz
  case waitStart => exact .inl rfl
  case done => exact .inr rfl
  case unused => simp [StInRange, hs, stCode] at hst
  all_goals omega

section
variable (b : Byte) {s : State}

theorem pushSeq_bytesLeft (hs : s.st = .seq) : bytesLeft (pushSeq b s) < bytesLeft s := by
  have hpos := shortFieldLeft_pos (variantC s) s.fcnt
  have hlen := lenFieldLeft_zero (variantC s)
  rcases pushSeq_cases b s with ⟨hv, e⟩ | ⟨hv, hf, e⟩ | ⟨hv, hf, e⟩ <;> rw [e]
  · show bytesLeftIn (variantC s) _ 0#2 _ .size < bytesLeftIn _ _ _ _ s.st
    simp only [hs, bytesLeftIn, acc_params]
    omega
  · show bytesLeftIn (variantC s) _ 1#2 _ s.st < bytesLeftIn _ _ _ _ s.st
    simp [hs, bytesLeftIn, shortFieldLeft, hv, hf]
  · show bytesLeftIn (variantC s) _ 0#2 _ .size < bytesLeftIn _ _ _ _ s.st
    simp only [hs, bytesLeftIn, acc_params]
    omega

theorem pushSize_bytesLeft (hs : s.st = .size) : bytesLeft (pushSize b s) < bytesLeft s := by
  have hpos := lenFieldLeft_pos (variantC s) s.fcnt
  rcases pushSize_cases b s with ⟨hl, e⟩ | ⟨-, -, e⟩ | ⟨-, -, e⟩ <;> rw [e]
  · have hne : s.fcnt ≠ lastLenIndex (variantC s) := by simpa [lastLenByte_eq] using hl
    have hnext := lenFieldLeft_next _ _ hne
    show bytesLeftIn (variantC s) _ (s.fcnt + 1#2) _ s.st < bytesLeftIn _ _ _ _ s.st
    simp only [hs, bytesLeftIn, acc_params]
    omega
  · show bytesLeftIn (variantC s) _ _ _ .token < bytesLeftIn _ _ _ _ s.st
    simp only [hs, bytesLeftIn, acc_params]
    omega
  · show 0 < bytesLeftIn _ _ _ _ s.st
    simp only [hs, bytesLeftIn]
    omega

theorem pushToken_bytesLeft (hs : s.st = .token) (hle : s.lenr ≤ s.params.maxLen) :
    bytesLeft (pushToken b s) < bytesLeft s := by
  have hshort := shortFieldLeft_zero (variantC s)
  have hle' : s.lenr.toNat ≤ s.params.maxLen.toNat := hle
  rcases pushToken_cases b s with ⟨-, e⟩ | ⟨-, e⟩ <;> rw [e]
  · show bytesLeftIn (variantC s) _ 0#2 (s.lenr.toNat - 0) (if s.lenr = 0#32 then .csum else .data) <
      bytesLeftIn _ _ _ _ s.st
    split <;> simp only [hs, bytesLeftIn] <;> omega
  · show 0 < bytesLeftIn _ _ _ _ s.st
    simp only [hs, bytesLeftIn]
    omega

theorem pushData_bytesLeft {t : State} (hs : s.st = .data) (hlt : s.dcnt < s.lenr) (ht : pushData b s = .ok t) :
    bytesLeft t < bytesLeft s := by
  have hnext : (s.dcnt + 1#32).toNat = s.dcnt.toNat + 1 := by bv_omega
  have hlt' : s.dcnt.toNat < s.lenr.toNat := hlt
  have hshort := shortFieldLeft_zero (variantC s)
  obtain ⟨-, rfl⟩ := pushData_ok.1 ht
  by_cases hl : s.dcnt + 1#32 = s.lenr
  · simp only [hl, if_true]
    show bytesLeftIn (variantC s) _ 0#2 _ .csum < bytesLeftIn _ _ _ _ s.st
    simp only [hs, bytesLeftIn]
    omega
  · simp only [hl, if_false]
    show bytesLeftIn (variantC s) _ _ (s.lenr.toNat - (s.dcnt + 1#32).toNat) s.st < bytesLeftIn _ _ _ _ s.st
    simp only [hs, bytesLeftIn]
    omega

theorem pushCsum_bytesLeft (hs : s.st = .csum) : bytesLeft (pushCsum b s) < bytesLeft s := by
  have hpos := shortFieldLeft_pos (variantC s) s.fcnt
  rcases pushCsum_cases b s with ⟨hv, hf, e⟩ | ⟨-, -, e⟩ | ⟨-, -, e⟩ <;> rw [e]
  · show bytesLeftIn (variantC s) _ 1#2 _ s.st < bytesLeftIn _ _ _ _ s.st
    simp [hs, bytesLeftIn, shortFieldLeft, hv, hf]
  all_goals
    show 0 < bytesLeftIn _ _ _ _ s.st
    rwa [hs, bytesLeftIn]

/-- Every byte of a frame brings its end nearer. -/
theorem execSyncPush_bytesLeft {t : State} (h : PayloadBounds s) (hmid : 0 < bytesLeft s)
    (e : execSyncPush b s = .next t) : bytesLeft t < bytesLeft s := by
  obtain ⟨-, hlen, hdata, -⟩ := h
  rcases execSyncPush_next e with
    ⟨hs, rfl⟩ | ⟨hs, rfl⟩ | ⟨hs, rfl⟩ | ⟨hs, rfl⟩ | ⟨hs, u, hu, rfl⟩ | ⟨hs, rfl⟩ | ⟨hs, rfl⟩
  · simp [bytesLeft, bytesLeftIn, hs] at hmid
  · exact pushSeq_bytesLeft b hs
  · exact pushSize_bytesLeft b hs
  · exact pushToken_bytesLeft b hs (hlen (.inl hs))
  · show bytesLeft u < bytesLeft s
    exact pushData_bytesLeft b hs (hdata hs) hu
  · exact pushCsum_bytesLeft b hs
  · simp [bytesLeft, bytesLeftIn, hs] at hmid

end

/-- From any state the frame ends within `bytesLeft` bytes, by induction over the bytes. -/
theorem frame_ends_within_bytesLeft {s : State} {bs : List Byte} (h : PayloadBounds s) (hbs : bytesLeft s ≤ bs.length) :
    ∃ (k : Nat) (t : State), k ≤ bytesLeft s ∧ pushAll (bs.take k) s = .next t ∧ (t.st = .waitStart ∨ t.st = .done) := by
  by_cases hz : bytesLeft s = 0
  · exact ⟨0, s, Nat.zero_le _, rfl, bytesLeft_eq_zero h hz⟩
  · induction bs generalizing s with
    | nil => exact absurd (Nat.le_zero.1 hbs) hz
    | cons b bs ih =>
      obtain ⟨u, hu⟩ := exec_next_of_payloadBounds (.syncPush b) h
      have hless := execSyncPush_bytesLeft b h (Nat.pos_of_ne_zero hz) hu
      have hb := execSyncPush_keeps_payloadBounds h hu
      by_cases hzu : bytesLeft u = 0
      · exact ⟨1, u, Nat.pos_of_ne_zero hz, pushAll_one hu, bytesLeft_eq_zero hb hzu⟩
      · obtain ⟨k, t, hk, ht, hend⟩ := ih hb (by rw [List.length_cons] at hbs; omega) hzu
        exact ⟨k + 1, t, by omega, pushAll_cons hu ht, hend⟩

/-- Settles O58: after START the two fields, TOKEN, a payload of at most MAX_LEN bytes and the checksum are left. -/
theorem frameSizeIsBounded : Obligations.FrameSizeIsBounded := by
  intro s bs bound hst hbound hlen
  have hstart := execSyncPush_start hst
  have hleft : bytesLeft (taken [startByte] (opened s)) + 1 = bound := by
    have hvar : s.ctrl.getLsbD 0 = variantC s := rfl
    show bytesLeftIn (variantC s) s.params.maxLen.toNat 0#2 0 .seq + 1 = bound
    rw [hbound, hvar]
    cases variantC s
    · show 2 + (4 + (1 + (s.params.maxLen.toNat + 2))) + 1 = s.params.maxLen.toNat + 10
      omega
    · show 1 + (2 + (1 + (s.params.maxLen.toNat + 1))) + 1 = s.params.maxLen.toNat + 6
      omega
  obtain ⟨k, t, hk, ht, hend⟩ := frame_ends_within_bytesLeft (bs := bs)
    (payloadBounds_of_early (s := taken [startByte] (opened s)) (.inr (.inl rfl))) (by omega)
  exact ⟨k + 1, t, by omega, by omega, pushAll_cons hstart ht, hend⟩

end Sys2Proof.Machine
end

section
/-! PROOFS. The statements about the control and status commands (spec/43_control.md): what NOP, SOFT_RESET, WR_CTRL, RD_CTRL,
RD_STATUS and CLR_ERR answer and write, and the STATUS word field by field (spec/10_state.md R24). -/

namespace Sys2Proof.Machine

/-! ### NOP and SOFT_RESET -/

/-- Settles O7: D has no part, and only the response is written. -/
theorem nopOnlyAnswersZero : Obligations.NopOnlyAnswersZero :=
  ⟨fun _ => decode_append.2 ⟨rfl, nofun⟩, fun _ => rfl⟩

/-- With both enables 0 the interrupt output is low (R40). -/
theorem irq_of_ctrl_zero {s : State} (hctrl : s.ctrl = 0x00#8) : irq s = false := by
  rw [← Bool.not_eq_true, irq_iff]
  simp [hctrl]

/-- Settles O8: D has no part, the values are those of `resetRegisters`, and with CTRL 0 no interrupt is enabled. -/
theorem softResetRestoresResetValues : Obligations.SoftResetRestoresResetValues :=
  ⟨fun _ => decode_append.2 ⟨rfl, nofun⟩, fun s =>
    ⟨respond 0#32 (resetRegisters s), rfl, irq_of_ctrl_zero rfl, rfl⟩⟩

/-! ### CTRL -/

/-- Settles O9: D is the operand, and each clause is one side of `exec_wrCtrl_next`. -/
theorem writeCtrlKeepsOrDropsTheFrame : Obligations.WriteCtrlKeepsOrDropsTheFrame :=
  ⟨fun _ => decode_append.2 ⟨rfl, fun _ => rfl⟩, fun _ _ =>
    ⟨fun hsame => exec_wrCtrl_next.2 (.inl ⟨hsame, rfl⟩), fun hchange => exec_wrCtrl_next.2 (.inr ⟨hchange, rfl⟩)⟩⟩

/-- CTRL reads as its three defined bits (R23). -/
theorem ctrlRead_eq (s : State) : ctrlRead s = (s.ctrl.extractLsb' 0 3).setWidth 8 := by
  refine BitVec.eq_of_getLsbD_eq fun i hi => ?_
  rw [ctrlRead]
  interval_cases i <;> simp

/-- Settles O10: D has no part, and masking CTRL is taking its three defined bits. -/
theorem readCtrlAnswersCtrl : Obligations.ReadCtrlAnswersCtrl := by
  refine ⟨fun _ => decode_append.2 ⟨rfl, nofun⟩, fun s => ?_⟩
  have hread : (ctrlRead s).setWidth 32 = (s.ctrl.extractLsb' 0 3).setWidth 32 := by
    rw [ctrlRead_eq]
    exact BitVec.setWidth_setWidth (by decide)
  rw [← hread]
  rfl

/-! ### The STATUS word -/

/-- The bits of STATUS by the table of R24: each field at its place, and 0 at the reserved places and above bit 18. -/
theorem statusWord_getLsbD (s : State) {i : Nat} (hi : i < 32) :
    (statusWord s).getLsbD i =
      if i < 3 then (stCode s.st).getLsbD i
      else if i = 3 then variantC s
      else if i = 4 then frameReady s
      else if i = 5 then s.cksOk
      else if i = 6 then s.isEvt
      else if i = 7 then false
      else if i < 15 then s.err.getLsbD (i - 8)
      else if i = 15 then false
      else if i = 16 then crcZero s
      else if i = 17 then xorZero s
      else if i = 18 then irq s
      else false := by
  -- The width as the sum of the fields' widths, as `BitVec.getLsbD_append` reads it.
  change BitVec.getLsbD (w := 13 + 1 + 1 + 1 + 1 + 7 + 1 + 1 + 1 + 1 + 1 + 3) _ i = _
  simp only [statusWord, BitVec.getLsbD_append, -Nat.reduceAdd, BitVec.getLsbD_ofBool]
  interval_cases i <;> rfl

/-- A field of a vector from its bits. -/
theorem extractLsb'_eq_of_getLsbD {n m a : Nat} {v : BitVec n} {u : BitVec m}
    (h : ∀ i < m, v.getLsbD (a + i) = u.getLsbD i) : v.extractLsb' a m = u := by
  refine BitVec.eq_of_getLsbD_eq fun i hi => ?_
  rw [BitVec.getLsbD_extractLsb', decide_eq_true hi, Bool.true_and, h i hi]

theorem statusWord_st (s : State) : (statusWord s).extractLsb' 0 3 = stCode s.st := by
  refine extractLsb'_eq_of_getLsbD fun i hi => ?_
  rw [statusWord_getLsbD s (by omega)]
  interval_cases i <;> rfl

theorem statusWord_err (s : State) : (statusWord s).extractLsb' 8 7 = s.err := by
  refine extractLsb'_eq_of_getLsbD fun i hi => ?_
  rw [statusWord_getLsbD s (by omega)]
  interval_cases i <;> rfl

theorem statusWord_reserved (s : State) : (statusWord s).extractLsb' 19 13 = 0#13 := by
  refine extractLsb'_eq_of_getLsbD fun i hi => ?_
  rw [statusWord_getLsbD s (by omega)]
  interval_cases i <;> rfl

/-- Settles O11: D has no part, and each field of the answer is at its place in the STATUS word; `irq` by its two causes. -/
theorem readStatusComposesTheFields : Obligations.ReadStatusComposesTheFields := by
  refine ⟨fun _ => decode_append.2 ⟨rfl, nofun⟩, rfl, rfl, rfl, rfl, rfl, rfl, rfl, rfl, fun s => ?_⟩
  have bit {i : Nat} (hi : i < 32) := statusWord_getLsbD s hi
  refine ⟨statusWord s, rfl, statusWord_st s, bit (by decide), bit (by decide), bit (by decide), bit (by decide),
    bit (by decide), statusWord_err s, bit (by decide), bit (by decide), bit (by decide), ?_, statusWord_reserved s⟩
  have hirq : (statusWord s).getLsbD 18 = irq s := bit (by decide)
  rw [hirq, Bool.eq_iff_iff, irq_iff, decide_eq_true_iff]

/-! ### ERR -/

/-- The mask is the low bits of D (R65). -/
theorem errMask_getLsbD (d : Byte) {i : Nat} (hi : i < 7) : (errMask d).getLsbD i = d.getLsbD i := by
  simp [errMask, hi]

/-- Settles O12: D is the operand, and each flag is cleared where the mask has a 1. -/
theorem clearErrorsByMask : Obligations.ClearErrorsByMask := by
  refine ⟨fun _ => decode_append.2 ⟨rfl, fun _ => rfl⟩, fun d s => ⟨s.err &&& ~~~errMask d, rfl, fun i hi => ?_⟩⟩
  rw [BitVec.getLsbD_and, BitVec.getLsbD_not, errMask_getLsbD d hi, decide_eq_true hi, Bool.true_and]

end Sys2Proof.Machine
end

section
/-! PROOFS. The statement about errors (spec/60_exceptions.md): what one command does to ERR, and the flags it newly sets. -/

namespace Sys2Proof.Machine

/-! ### Newly set flags -/

/-- An error code is a bit index of the 7-bit ERR (R167). -/
theorem errCode_lt (e : ErrFlag) : errCode e < 7 := by
  cases e <;> decide

/-- Keeping the flags of a mask sets none newly. -/
theorem newFlags_and (f m : BitVec 7) : (f &&& m) &&& ~~~f = 0#7 := by
  ext j hj
  cases hf : f[j] <;> simp [hf]

/-- A raised flag (R166) is newly set, or was set before. -/
theorem newFlags_or_errBit (f : BitVec 7) (e : ErrFlag) :
    (f ||| errBit e) &&& ~~~f = 0#7 ∨ (f ||| errBit e) &&& ~~~f = errBit e := by
  have hnew : (f ||| errBit e) &&& ~~~f = ~~~f &&& errBit e := by
    ext j hj
    cases hf : f[j] <;> simp [hf]
  have hbit : errBit e = BitVec.twoPow 7 (errCode e) := rfl
  rw [hnew, hbit, BitVec.and_twoPow]
  split
  · exact .inr rfl
  · exact .inl rfl

/-! ### What a command does to ERR -/

/-- SYNC_PUSH keeps ERR or raises one flag (R126 to R134). -/
theorem execSyncPush_err {b : Byte} {s t : State} (h : execSyncPush b s = .next t) :
    t.err = s.err ∨ ∃ e, t.err = s.err ||| errBit e := by
  rcases execSyncPush_next h with
    ⟨-, rfl⟩ | ⟨-, rfl⟩ | ⟨-, rfl⟩ | ⟨-, rfl⟩ | ⟨-, u, hu, rfl⟩ | ⟨-, rfl⟩ | ⟨-, rfl⟩ <;> rw [respond_err]
  · rcases pushWaitStart_cases b s with ⟨-, e⟩ | ⟨-, -, -, e⟩ | ⟨-, -, e⟩ <;> rw [e]
    · exact .inl rfl
    · exact .inr ⟨.sync, rfl⟩
    · exact .inl rfl
  · rcases pushSeq_cases b s with ⟨-, e⟩ | ⟨-, -, e⟩ | ⟨-, -, e⟩ <;> rw [e] <;> exact .inl rfl
  · rcases pushSize_cases b s with ⟨-, e⟩ | ⟨-, -, e⟩ | ⟨-, -, e⟩ <;> rw [e]
    · exact .inl rfl
    · exact .inl rfl
    · exact .inr ⟨.len, rfl⟩
  · rcases pushToken_cases b s with ⟨-, e⟩ | ⟨-, e⟩ <;> rw [e]
    · exact .inl rfl
    · exact .inr ⟨.token, rfl⟩
  · obtain ⟨-, rfl⟩ := pushData_ok.1 hu
    exact .inl rfl
  · rcases pushCsum_cases b s with ⟨-, -, e⟩ | ⟨-, -, e⟩ | ⟨-, -, e⟩ <;> rw [e]
    · exact .inl rfl
    · exact .inl rfl
    · exact .inr ⟨.cksum, rfl⟩
  · exact .inr ⟨.overrun, rfl⟩

/-- A command raises one flag, or keeps the flags of a mask: all of them, those outside CLR_ERR's mask (R156), or none (R152). -/
theorem exec_err {i : Instr} {s t : State} (h : exec i s = .next t) :
    (∃ m, t.err = s.err &&& m) ∨ ∃ e, t.err = s.err ||| errBit e := by
  have kept (herr : t.err = s.err) : ∃ m, t.err = s.err &&& m := ⟨BitVec.allOnes 7, by rw [herr, BitVec.and_allOnes]⟩
  obtain ⟨-, -, -, herr, -⟩ := eachItemChangesOnlyUnderItsCommands i s t h
  cases i
  case softReset => cases h; exact .inl ⟨0#7, BitVec.and_zero.symm⟩
  case clrErr d => cases h; exact .inl ⟨~~~errMask d, rfl⟩
  case syncPush b => exact (execSyncPush_err h).imp_left kept
  case rdPayload =>
    rcases exec_rdPayload_next.1 h with ⟨-, -, rfl⟩ | ⟨-, rfl⟩
    · exact .inl (kept rfl)
    · exact .inr ⟨.range, rfl⟩
  all_goals exact .inl (kept (herr (by simp [Instr.opcode])))

/-- A legal word by the command it decodes to; an illegal one raises ERR_ILLEGAL (R157). -/
theorem issue_err {w : Half} {s t : State} (h : issue w s = .next t) :
    (∃ m, t.err = s.err &&& m) ∨ ∃ e, t.err = s.err ||| errBit e := by
  rw [issue_eq] at h
  cases hd : decode w with
  | some i =>
    rw [execWord_some hd] at h
    exact exec_err h
  | none =>
    rw [execWord_none hd] at h
    cases h
    exact .inr ⟨.illegal, rfl⟩

/-- Settles O45: a command that keeps flags sets none newly, and one that raises a flag sets at most that one. -/
theorem atMostOneErrorPerCommand : Obligations.AtMostOneErrorPerCommand := by
  intro w s t h
  rcases issue_err h with ⟨m, herr⟩ | ⟨e, herr⟩ <;> rw [herr]
  · exact .inl (newFlags_and s.err m)
  · exact (newFlags_or_errBit s.err e).imp_right fun hnew => ⟨errCode e, errCode_lt e, hnew⟩

end Sys2Proof.Machine
end

section
/-! PROOFS. The statements about reset and runs (spec/70_reset_and_hazards.md): what a pulse of the reset input does, and that
every run of command words comes to its end. -/

namespace Sys2Proof.Machine

/-! ### The reset input -/

/-- A pulse at the port: the step resets the registers, and executes no command (R190). -/
theorem step_reset {s : State} {rest : List HostInput} (h : s.inputs = .reset :: rest) :
    step s = .next (hardReset { s with inputs := rest }) := by
  have : takeInput s = some (.reset, { s with inputs := rest }) := takeInput_some.2 ⟨rest, h, rfl⟩
  simp [step, this]

/-- Settles O6: `hardReset` gives every register its value of R42, and writes neither PBUF nor the port. -/
theorem resetPulseGivesResetValues : Obligations.ResetPulseGivesResetValues := fun _ _ h => step_reset h

/-! ### Runs -/

/-- From a state of the invariant every issued word has a next state: a legal command stays within the payload's bounds, and an
illegal one touches no payload (R157). -/
theorem issue_next_of_invariant (w : Half) {s : State} (h : MachineInvariant s) : ∃ t, issue w s = .next t := by
  rw [issue_eq]
  cases hd : decode w with
  | some i =>
    obtain ⟨hbounds, -⟩ := (machineInvariant_iff s).1 h
    rw [execWord_some hd]
    exact exec_next_of_payloadBounds i hbounds
  | none => exact ⟨_, execWord_none hd s⟩

/-- An issued word is a step, and what waits at the port is no part of the invariant. -/
theorem issue_keeps_machineInvariant {w : Half} {s t : State} (h : MachineInvariant s) (e : issue w s = .next t) :
    MachineInvariant t :=
  stepKeepsTheInvariant { s with inputs := .command w :: s.inputs } t h e

/-- No issued word changes the parameters, or what still waits at the port. -/
theorem issue_params_inputs {w : Half} {s t : State} (e : issue w s = .next t) :
    t.params = s.params ∧ t.inputs = s.inputs := by
  rw [issue_eq] at e
  cases hd : decode w with
  | some i =>
    rw [execWord_some hd] at e
    obtain ⟨hparams, hinputs, -⟩ := eachItemChangesOnlyUnderItsCommands i s t e
    exact ⟨hparams, hinputs⟩
  | none =>
    rw [execWord_none hd] at e
    cases e
    exact ⟨rfl, rfl⟩

/-- Settles O43, by induction over the words: the first has a next state, which keeps the invariant and adds one response, and
the others run from there. -/
theorem everyRunCompletes : Obligations.EveryRunCompletes := by
  intro ws
  induction ws with
  | nil => exact fun s h => ⟨s, rfl, h, rfl, rfl, rfl, List.prefix_rfl⟩
  | cons w ws ih =>
    intro s h
    obtain ⟨u, hu⟩ := issue_next_of_invariant w h
    obtain ⟨hparams, hinputs⟩ := issue_params_inputs hu
    obtain ⟨v, hv, -⟩ := oneResponsePerCommand w s u hu
    obtain ⟨t, ht, hinv, htinputs, htparams, hlen, hpre⟩ := ih u (issue_keeps_machineInvariant h hu)
    have hcount : t.resps.length = s.resps.length + (w :: ws).length := by
      simp only [hlen, hv, List.length_append, List.length_cons, List.length_nil]
      omega
    have hkept : s.resps <+: u.resps := ⟨[v], hv.symm⟩
    exact ⟨t, by rw [issueAll_cons_next hu, ht], hinv, htinputs.trans hinputs, htparams.trans hparams, hcount,
      hkept.trans hpre⟩

end Sys2Proof.Machine
end
